-- ==== Sys2Proof/Word.lean ====
section
/-! DEFINITION. The values of the block (spec/00_scope.md R10, R14): bits, bytes, 16-bit words and the header record. -/

namespace Sys2Proof

/-- `Bit` of R10. `true` is 1, a high line level (R170). -/
abbrev Bit := Bool

/-- `u8` of R10. -/
abbrev Byte := BitVec 8

/-- `u16` of R10: a command word (R74) or a Manchester symbol (R70). -/
abbrev Word16 := BitVec 16

/-- The `Header` record of R14, the source's "Packet Header" with its payload and trailer. -/
structure Header where
  sync : Byte
  version : Byte
  src : Byte
  dest : Byte
  length : Byte
  crcEnabled : Bool
  payload : List Byte
  crc8 : Byte
deriving DecidableEq, Repr

/-- R14: "The record is well formed when `len(payload) = length`." -/
def Header.wf (h : Header) : Bool := h.payload.length == h.length.toNat

end Sys2Proof
end

