-- ==== Sys2Proof/Config.lean ====
section
/-! DEFINITION. The parameters an implementation fixes (spec/00_scope.md R7, R8, R9). They are no state of the hardware: they
are fixed for a run. The model holds them in State.cfg, so that every statement covers every value (log entry 1). -/

namespace Sys2Proof

/-- The parameters of R7 (cycle counts), R8 (line polarity) and R9 (ring sizes and station identity). -/
structure Config where
  /-- `H`: the half-bit period and the tick period, in cycles. -/
  halfBit : Nat
  /-- `T_HB`: the receiver's half-bit timeout. -/
  tHb : Nat
  /-- `T_IDLE`: the line-idle timeout. -/
  tIdle : Nat
  /-- `RELEASED_LEVEL` (R8): 1 on this hardware, kept as an argument as R8 allows (log entry 2). -/
  releasedLevel : Bit
  /-- `N_RX` and `N_TX`: ring sizes in bytes. -/
  nRx : Nat
  nTx : Nat
  /-- `SRC_ID`, `DEST_ID`, `CRC_EN`: what `ENQ` writes into a frame. -/
  srcId : Byte
  destId : Byte
  crcEn : Bool
deriving DecidableEq, Repr

/-- `BIT`, the bit period of R7. -/
def Config.bitPeriod (c : Config) : Nat := 2 * c.halfBit

/-- The timing constraints of R7 and R350. -/
abbrev Config.timingOk (c : Config) : Prop :=
  1 ≤ c.halfBit ∧ c.halfBit ≤ c.tHb ∧ c.tHb < 2 * c.halfBit ∧ 2 * c.halfBit < c.tIdle

/-- The size constraints of R9. -/
abbrev Config.sizesOk (c : Config) : Prop := 2 ≤ c.nRx ∧ 2 ≤ c.nTx

/-- Every constraint of R7 and R9. A model assumes them as hypotheses (R350). -/
abbrev Config.ok (c : Config) : Prop := c.timingOk ∧ c.sizesOk

/-- The parameter values of the test vectors (R9, 92_eei_decisions.md D45), with R8's released level. -/
def Config.testValues : Config where
  halfBit := 4
  tHb := 4
  tIdle := 12
  releasedLevel := true
  nRx := 16
  nTx := 32
  srcId := 0xAA#8
  destId := 0xBB#8
  crcEn := true

end Sys2Proof
end

