-- ==== Sys2Proof/Syntax.lean ====
section
/-! DEFINITION. The 14 operations of spec/30_encoding.md R78 (spec/opcode_table.json), each with its immediate (R79) and its
out-of-band operand (R76). -/

namespace Sys2Proof

/-- One constructor for each row of the opcode table. The first five are events, the others host commands (R75). -/
inductive Instr where
  /-- EDGE: a level change on the line, `l` the level after it (R100). -/
  | edge (l : Bit)
  /-- IDLE_TO: the line-idle timeout expired (R101). -/
  | idleTo
  /-- HB_TO: the receiver's half-bit timeout expired (R224). -/
  | hbTo
  /-- TICK: one half-bit slot of a transmission is over (R195). -/
  | tick
  /-- START: the queued message begins (R194). -/
  | start
  /-- ENQ: frame, encode and queue `payload` (R190). -/
  | enq (payload : List Byte)
  /-- RXGET: read one received byte (R226). -/
  | rxget
  /-- STATUS: read the status word (R280). -/
  | status
  /-- CLRF: clear sticky flags (R281). -/
  | clrf (mask : Byte)
  /-- CRC8: the checksum of `bytes` (R124). -/
  | crc8 (bytes : List Byte)
  /-- ENCODE: the Manchester symbol of `v` (R175). -/
  | encode (v : Byte)
  /-- FRAME: build a frame (R146). -/
  | frame (src dest : Byte) (crcEnabled : Bool) (payload : List Byte)
  /-- PARSE: parse a received buffer (R147). -/
  | parse (buffer : List Byte)
  /-- CONFIRM: check the checksum of a parsed header (R148). -/
  | confirm (hdr : Header)
deriving DecidableEq, Repr

end Sys2Proof
end

