-- ==== Sys2Proof/WellFormed.lean ====
section
/-! DEFINITION. Which terms of Instr stand for a legal command word and operand (spec/30_encoding.md R79, R80, R81). -/

namespace Sys2Proof

/-- R79, R80: the mask bits of `CLRF` other than 4 and 6 must be 0 (`imm & 0xAF = 0`). -/
def clrfMaskOk (mask : Byte) : Bool := mask &&& 0xAF#8 == 0#8

/-- A well-formed instruction. `CLRF` limits its mask (R80) and `CONFIRM` its header (R81); every other operand is legal at
every value its type admits, a payload of more than 255 bytes too (R76: it "raises `PAYLOAD_TOO_LARGE`"). -/
def Instr.wf : Instr → Bool
  | .edge _ => true
  | .idleTo => true
  | .hbTo => true
  | .tick => true
  | .start => true
  | .enq _ => true
  | .rxget => true
  | .status => true
  | .clrf mask => clrfMaskOk mask
  | .crc8 _ => true
  | .encode _ => true
  | .frame _ _ _ _ => true
  | .parse _ => true
  | .confirm hdr => hdr.wf

/-- R75: whether an instruction is an event (`OP` 0x01 to 0x05) and not a host command. -/
def Instr.isEvent : Instr → Bool
  | .edge _ => true
  | .idleTo => true
  | .hbTo => true
  | .tick => true
  | .start => true
  | .enq _ => false
  | .rxget => false
  | .status => false
  | .clrf _ => false
  | .crc8 _ => false
  | .encode _ => false
  | .frame _ _ _ _ => false
  | .parse _ => false
  | .confirm _ => false

end Sys2Proof
end

