-- ==== Sys2Proof/Decode.lean ====
section
/-! DEFINITION. The command word F-CMD (spec/30_encoding.md R74 to R82): decoding a word with its out-of-band operand, and the
encoder. A word that stands for no operation is rejected by name; `refuse` (R82) is what the machine then does. -/

namespace Sys2Proof

/-! ## What the command port carries -/

/-- The out-of-band operand beside a word (R76). `crcEnabled` travels as a byte, 0 for false and 1 for true, so that R81's
"`crcEnabled` that is not a `Bool`" can be presented (log entry 10). -/
inductive Operand where
  | none
  | bytes (bs : List Byte)
  | frame (src dest crcEnabled : Byte) (payload : List Byte)
  | header (hdr : Header)
deriving DecidableEq, Repr

/-- A word with its operand, as the port presents it (R250 `cmd_word`, `cmd_operand`). -/
structure Command where
  word : Word16
  operand : Operand
deriving DecidableEq, Repr

/-- Why a word is illegal (R81). The machine does the same on each of them (R82). -/
inductive Illegal where
  /-- `OP` is not in the map (R78). -/
  | reservedOp
  /-- `IMM8` holds bits the operation does not define (R79). -/
  | reservedImm
  /-- The operation takes no operand, or none of this kind. -/
  | operandNotTaken
  /-- The operation needs an operand and the word has none. -/
  | operandMissing
  /-- The operand is of the right kind and ill formed. -/
  | operandIllFormed
deriving DecidableEq, Repr

/-! ## The word (R74, R80) -/

/-- `OP`, bits 7:0. -/
def opOf (w : Word16) : Byte := w.extractLsb' 0 8

/-- `IMM8`, bits 15:8. -/
def immOf (w : Word16) : Byte := w.extractLsb' 8 8

/-- The result `Op` of R80's `decode(w)`: an operation with its immediate. -/
inductive Op where
  | edge (l : Bit)
  | idleTo
  | hbTo
  | tick
  | start
  | enq
  | rxget
  | status
  | clrf (mask : Byte)
  | crc8
  | encode (v : Byte)
  | frame
  | parse
  | confirm
deriving DecidableEq, Repr

/-- The line "if imm = 0 then op else Reserved" of R80. -/
def needsZeroImm (imm : Byte) (op : Op) : Except Illegal Op :=
  if imm = 0#8 then .ok op else .error .reservedImm

/-- The `case op of` of R80's `decode`, on the two fields of the word. -/
def decodeFields (op imm : Byte) : Except Illegal Op :=
  if op = 0x01#8 then
    if imm.extractLsb' 1 7 = 0#7 then .ok (.edge (imm.getLsbD 0)) else .error .reservedImm
  else if op = 0x02#8 then needsZeroImm imm .idleTo
  else if op = 0x03#8 then needsZeroImm imm .hbTo
  else if op = 0x04#8 then needsZeroImm imm .tick
  else if op = 0x05#8 then needsZeroImm imm .start
  else if op = 0x10#8 then needsZeroImm imm .enq
  else if op = 0x11#8 then needsZeroImm imm .rxget
  else if op = 0x12#8 then needsZeroImm imm .status
  else if op = 0x13#8 then
    if clrfMaskOk imm then .ok (.clrf imm) else .error .reservedImm
  else if op = 0x20#8 then needsZeroImm imm .crc8
  else if op = 0x21#8 then .ok (.encode imm)
  else if op = 0x22#8 then needsZeroImm imm .frame
  else if op = 0x23#8 then needsZeroImm imm .parse
  else if op = 0x24#8 then needsZeroImm imm .confirm
  else .error .reservedOp

/-- R80's `decode`, a total function of the word. -/
def decodeWord (w : Word16) : Except Illegal Op := decodeFields (opOf w) (immOf w)

/-- R258: a word whose `OP` is an event's (0x01 to 0x05), with whatever immediate. -/
def isEventWord (w : Word16) : Bool := 0x01#8 ≤ opOf w && opOf w ≤ 0x05#8

/-! ## The operand (R76, R81) -/

/-- An operation that takes no operand. -/
def takesNone (o : Operand) (i : Instr) : Except Illegal Instr :=
  match o with
  | .none => .ok i
  | .bytes _ => .error .operandNotTaken
  | .frame _ _ _ _ => .error .operandNotTaken
  | .header _ => .error .operandNotTaken

/-- An operation that takes a byte sequence. -/
def takesBytes (o : Operand) (i : List Byte → Instr) : Except Illegal Instr :=
  match o with
  | .none => .error .operandMissing
  | .bytes bs => .ok (i bs)
  | .frame _ _ _ _ => .error .operandNotTaken
  | .header _ => .error .operandNotTaken

/-- `FRAME`'s operand; a `crcEnabled` other than 0 and 1 is not a `Bool` (R81). -/
def takesFrame (o : Operand) : Except Illegal Instr :=
  match o with
  | .none => .error .operandMissing
  | .bytes _ => .error .operandNotTaken
  | .frame src dest ce payload =>
    if ce = 0#8 then .ok (.frame src dest false payload)
    else if ce = 1#8 then .ok (.frame src dest true payload)
    else .error .operandIllFormed
  | .header _ => .error .operandNotTaken

/-- `CONFIRM`'s operand; a header with `len(hdr.payload) != hdr.length` is ill formed (R81). -/
def takesHeader (o : Operand) : Except Illegal Instr :=
  match o with
  | .none => .error .operandMissing
  | .bytes _ => .error .operandNotTaken
  | .frame _ _ _ _ => .error .operandNotTaken
  | .header hdr => if hdr.wf then .ok (.confirm hdr) else .error .operandIllFormed

/-- R76: which operand each operation takes. -/
def attach (op : Op) (o : Operand) : Except Illegal Instr :=
  match op with
  | .edge l => takesNone o (.edge l)
  | .idleTo => takesNone o .idleTo
  | .hbTo => takesNone o .hbTo
  | .tick => takesNone o .tick
  | .start => takesNone o .start
  | .enq => takesBytes o .enq
  | .rxget => takesNone o .rxget
  | .status => takesNone o .status
  | .clrf mask => takesNone o (.clrf mask)
  | .crc8 => takesBytes o .crc8
  | .encode v => takesNone o (.encode v)
  | .frame => takesFrame o
  | .parse => takesBytes o .parse
  | .confirm => takesHeader o

/-- A word and its operand become an instruction, or are illegal (R80, R81). -/
def decode (c : Command) : Except Illegal Instr :=
  match decodeWord c.word with
  | .ok op => attach op c.operand
  | .error e => .error e

/-! ## The encoder (R78, R79) -/

/-- The operation code of each row of R78. -/
def opcode : Instr → Byte
  | .edge _ => 0x01#8
  | .idleTo => 0x02#8
  | .hbTo => 0x03#8
  | .tick => 0x04#8
  | .start => 0x05#8
  | .enq _ => 0x10#8
  | .rxget => 0x11#8
  | .status => 0x12#8
  | .clrf _ => 0x13#8
  | .crc8 _ => 0x20#8
  | .encode _ => 0x21#8
  | .frame _ _ _ _ => 0x22#8
  | .parse _ => 0x23#8
  | .confirm _ => 0x24#8

/-- The immediate of each row of R78. -/
def immediate : Instr → Byte
  | .edge l => if l then 1#8 else 0#8
  | .idleTo => 0#8
  | .hbTo => 0#8
  | .tick => 0#8
  | .start => 0#8
  | .enq _ => 0#8
  | .rxget => 0#8
  | .status => 0#8
  | .clrf mask => mask
  | .crc8 _ => 0#8
  | .encode v => v
  | .frame _ _ _ _ => 0#8
  | .parse _ => 0#8
  | .confirm _ => 0#8

/-- The out-of-band operand of each row of R78. -/
def operandOf : Instr → Operand
  | .edge _ => .none
  | .idleTo => .none
  | .hbTo => .none
  | .tick => .none
  | .start => .none
  | .enq payload => .bytes payload
  | .rxget => .none
  | .status => .none
  | .clrf _ => .none
  | .crc8 bytes => .bytes bytes
  | .encode _ => .none
  | .frame src dest ce payload => .frame src dest (if ce then 1#8 else 0#8) payload
  | .parse buffer => .bytes buffer
  | .confirm hdr => .header hdr

/-- The word and operand of an instruction: `IMM8` above `OP` (R74). -/
def encode (i : Instr) : Command := ⟨immediate i ++ opcode i, operandOf i⟩

/-! ## The pseudo-instructions of R85 -/

/-- R85's names. The tests of the first three, and the repetition of the last, run on the host. -/
inductive Pseudo where
  | isIdle
  | isBusy
  | isCollision
  | clrAbort
  | clrOvf
  | clrAll
  | drain
deriving DecidableEq, Repr

/-- R85's "expansion": the word each pseudo-instruction issues (`DRAIN` again and again, until `EMPTY`). -/
def Pseudo.expand : Pseudo → Instr
  | .isIdle => .status
  | .isBusy => .status
  | .isCollision => .status
  | .clrAbort => .clrf 0x10#8
  | .clrOvf => .clrf 0x40#8
  | .clrAll => .clrf 0x50#8
  | .drain => .rxget

/-! ## Words of the opcode table -/

/-- The operand of zeros beside a word of the table: the empty sequence, zero fields, or none (log entry 11). -/
def zeroOperand (w : Word16) : Operand :=
  match decodeWord w with
  | .error _ => .none
  | .ok (.edge _) => .none
  | .ok .idleTo => .none
  | .ok .hbTo => .none
  | .ok .tick => .none
  | .ok .start => .none
  | .ok .enq => .bytes []
  | .ok .rxget => .none
  | .ok .status => .none
  | .ok (.clrf _) => .none
  | .ok .crc8 => .bytes []
  | .ok (.encode _) => .none
  | .ok .frame => .frame 0#8 0#8 0#8 []
  | .ok .parse => .bytes []
  | .ok .confirm => .header ⟨0#8, 0#8, 0#8, 0#8, 0#8, false, [], 0#8⟩

/-- The command of a word given as `nbits` bits, the bits above them 0. -/
def tableCommand (nbits w : Nat) : Command :=
  let word := BitVec.ofNat 16 (w % 2 ^ nbits)
  ⟨word, zeroOperand word⟩

/-- The instruction the decoder reads from a word of the opcode table. -/
def decodeTableWord (nbits w : Nat) : Option Instr :=
  match decode (tableCommand nbits w) with
  | .ok i => some i
  | .error _ => none

end Sys2Proof
end

