-- ==== Sys2Proof/Machine/State.lean ====
section
/-! DEFINITION. The state of the block (spec/10_state.md R22 to R43) as plain data, with its ports and the environment's inputs,
and the state after reset. -/

namespace Sys2Proof.Machine

/-- The line classification of R13 and R22. The code `0b11` is never produced, so it has no constructor (R83). -/
inductive LineState where
  | idle
  | busy
  | collision
deriving DecidableEq, Repr

/-- Written slots in rising order of their index; a slot that is not listed is unwritten (R37, R51; log entry 6). -/
abbrev Memory := List Host.Cell

/-- The ring record of R51. Its size `N` is a parameter (R9), not a field. -/
structure Ring where
  buf : Memory
  put : Nat
  get : Nat
deriving DecidableEq, Repr

/-- The response codes of R300, by name. -/
inductive RespCode where
  | ok
  | payloadTooLarge
  | tooShort
  | lengthMismatch
  | badCrcSentinel
  | crcMismatch
  | queueFull
  | empty
  | refused
deriving DecidableEq, Repr

/-- The response data of R77. -/
inductive RespData where
  | none
  | byte (b : Byte)
  | word (w : Word16)
  | bytes (bs : List Byte)
  | header (h : Header)
deriving DecidableEq, Repr

/-- `respond(code, data)` (R77). -/
structure Response where
  code : RespCode
  data : RespData
deriving DecidableEq, Repr

/-- What decides the line's level in a cycle: the three cases of R255. -/
inductive LineSource where
  /-- "A test environment may also drive `line_in` directly". -/
  | driven (l : Bit)
  /-- "Single station, or a loopback test". -/
  | loopback
  /-- "Several stations on one line": the `(tx_en, tx_level)` of each other station. -/
  | shared (others : List (Bit × Bit))
deriving DecidableEq, Repr

/-- The inputs of one clock cycle (R250): `rst`, what `line_in` reads, and a host command where `cmd_valid` is 1. -/
structure CycleInput where
  rst : Bool
  line : LineSource
  cmd : Option Command
deriving DecidableEq, Repr

/-- What the environment presents: a word in the event layer, or one clock cycle in the cycle layer (R4). -/
inductive Input where
  | word (c : Command)
  | cycle (c : CycleInput)
deriving DecidableEq, Repr

/-- The state of one station. Field names are the spec's. -/
structure State where
  /-- The parameters of R7 to R9, fixed for a run (log entry 1). -/
  cfg : Config
  /-- Line monitor (R22 to R24). -/
  ls : LineState
  lastLevel : Bit
  idleArmed : Bool
  /-- Receiver (R25 to R29). -/
  expData : Bool
  rxCursor : Fin 8
  rxByte : Byte
  hbArmed : Bool
  rxOverflow : Bool
  rxRing : Ring
  /-- Timer counters, cycle-layer state (R30). -/
  idleCnt : Nat
  hbCnt : Nat
  tickCnt : Nat
  /-- Transmitter (R31 to R35). -/
  txActive : Bool
  txShift : Byte
  txBitsLeft : Fin 9
  tickArmed : Bool
  txAborted : Bool
  txEn : Bit
  txLevel : Bit
  txRing : Ring
  /-- Edge detector, cycle-layer state (R36). -/
  prevLevel : Bit
  /-- The model-only mark of R39. -/
  refused : Bool
  /-- The response port: `resp_valid` with `resp_code` and `resp_data` (R250, R282; log entry 8). -/
  resp : Option Response
  /-- The MODEL's own field: what the environment will present, oldest first (log entry 3). -/
  inputs : List Input
deriving DecidableEq, Repr

/-- Why a meaning has no next state. Each is safe: the model stops where the hardware either has no such step or cannot be.
`step` raises none of them from a state that meets the invariants of R42. -/
inductive Fault where
  /-- execIdleTo, with the idle timer not armed: R101, "the event has no step". Safe. -/
  | idleToNotAdmitted
  /-- execHbTo, with the half-bit timer not armed (R224, "Admission"). Safe. -/
  | hbToNotAdmitted
  /-- execTick, with the tick timer not armed (R195, "Admission"). Safe. -/
  | tickNotAdmitted
  /-- execStart, where R194's admission condition fails. Safe. -/
  | startNotAdmitted
  /-- RingGet of a slot nothing has written (R57: "A Lean model … may fault on `none`"). Safe, never reached. -/
  | unwrittenSlot
  /-- A ring access at a cursor outside `0..N-1` (R50, R51). Safe, never reached. -/
  | noSuchSlot
deriving DecidableEq, Repr

/-- Instructions with no meaning. An illegal command word is none of these: it has the effect of R82's `refuse`. -/
inductive Refusal where
  /-- exec's arms for instructions not modelled yet; no arm is left. Safe. -/
  | notModelled (mnemonic : String)
deriving DecidableEq, Repr

/-- The outcome of a step of this machine. -/
abbrev Result := Host.Outcome State Fault Refusal

/-- An empty ring with both cursors 0 and no slot written (R37). -/
def Ring.reset : Ring := ⟨[], 0, 0⟩

/-- The reset values of R43, for any parameter values. -/
def State.resetWith (cfg : Config) : State where
  cfg := cfg
  ls := .idle
  lastLevel := cfg.releasedLevel
  idleArmed := false
  expData := true
  rxCursor := 0
  rxByte := 0x00#8
  hbArmed := false
  rxOverflow := false
  rxRing := Ring.reset
  idleCnt := 0
  hbCnt := 0
  tickCnt := 0
  txActive := false
  txShift := 0x00#8
  txBitsLeft := 0
  tickArmed := false
  txAborted := false
  txEn := false
  txLevel := cfg.releasedLevel
  txRing := Ring.reset
  prevLevel := cfg.releasedLevel
  refused := false
  resp := none
  inputs := []

/-- The machine right after reset, with the parameter values of the spec's test vectors (D45; log entry 1). -/
def State.reset : State := State.resetWith Config.testValues

end Sys2Proof.Machine
end

