-- ==== Sys2Proof/Machine/Ops.lean ====
section
/-! DEFINITION. The named operations every meaning is written with: slots and rings (spec/20_memory.md R51, R55 to R58), timers
(spec/46_cycle_layer.md R252), responses (spec/00_scope.md R12, spec/30_encoding.md R77, R82) and reset
(spec/70_reset_and_hazards.md R340). The block has no exception to take or return from (spec/60_exceptions.md R302): a command
that fails ends with a response code, which `raise` writes. -/

namespace Sys2Proof.Machine

/-! ## Bits -/

/-- `v[k] <- l` of R11: writes one bit and leaves the others. -/
def setBit {w : Nat} (v : BitVec w) (k : Nat) (l : Bit) : BitVec w :=
  if l then v ||| (1#w <<< k) else v &&& ~~~(1#w <<< k)

/-! ## Chaining -/

/-- The next action of the same event (R11: writes happen in textual order); a stop ends the event. -/
def andThen (r : Result) (f : State → Result) : Result :=
  match r with
  | .next s => f s
  | .fault e => .fault e
  | .refused e => .refused e

/-! ## Slots (R50, R51) -/

/-- The byte of a slot; none where the slot is unwritten (R37). -/
def Memory.read (m : Memory) (a : Nat) : Option Byte :=
  match m with
  | [] => none
  | (a', b) :: rest => if a' = a then some b else Memory.read rest a

/-- Writes a slot and keeps the slots in rising order. -/
def Memory.write (m : Memory) (a : Nat) (b : Byte) : Memory :=
  match m with
  | [] => [(a, b)]
  | (a', b') :: rest =>
    if a < a' then (a, b) :: (a', b') :: rest
    else if a = a' then (a, b) :: rest
    else (a', b') :: Memory.write rest a b

/-- The canonical form: slot indices strictly rise. An unlisted slot reads as no value, so no entry can equal it. -/
abbrev Memory.wf (m : Memory) : Prop := m.Pairwise (fun x y => x.1 < y.1)

/-! ## Rings (R55 to R58), of size `n` -/

/-- `RingEmpty`. -/
def ringEmpty (r : Ring) : Bool := r.put == r.get

/-- `RingCount`: `(put - get) mod N`. -/
def ringCount (n : Nat) (r : Ring) : Nat := (r.put + n - r.get) % n

/-- `RingFull`. -/
def ringFull (n : Nat) (r : Ring) : Bool := (r.put + 1) % n == r.get

/-- `RingFree`. -/
def ringFree (n : Nat) (r : Ring) : Nat := n - 1 - ringCount n r

/-- What `RingPut` answers: it stored the byte, or the ring is full (R56's `false`), or `put` names no slot (R51). -/
inductive PutResult where
  | stored (r : Ring)
  | full
  | noSlot
deriving DecidableEq, Repr

/-- `RingPut` of R56: a full ring rejects the new byte and keeps everything it holds. -/
def ringPut (n : Nat) (r : Ring) (b : Byte) : PutResult :=
  if ringFull n r then .full
  else if r.put < n then .stored { r with buf := Memory.write r.buf r.put b, put := (r.put + 1) % n }
  else .noSlot

/-- `RingPut` of each byte in turn (the loop of R190); the ring is taken over only if every byte was stored. -/
def ringPutAll (n : Nat) (r : Ring) (bs : List Byte) : PutResult :=
  match bs with
  | [] => .stored r
  | b :: rest =>
    match ringPut n r b with
    | .stored r' => ringPutAll n r' rest
    | .full => .full
    | .noSlot => .noSlot

/-- What `RingGet` answers: a byte and the ring after, or `get` names no slot (R51), or the slot is unwritten (R57). -/
inductive GetResult where
  | got (b : Byte) (r : Ring)
  | noSlot
  | unwritten
deriving DecidableEq, Repr

/-- `RingGet` of R57. Its callers test `RingEmpty` first. -/
def ringGet (n : Nat) (r : Ring) : GetResult :=
  if r.get < n then
    match Memory.read r.buf r.get with
    | some b => .got b { r with get := (r.get + 1) % n }
    | none => .unwritten
  else .noSlot

/-- `RingClear` of R58: the slots keep their contents, out of reach. -/
def ringClear (r : Ring) : Ring := { r with get := r.put }

/-- The bytes a ring holds, oldest first: the slots from `get` up to `put`, modulo `n` (R55, R58). An unwritten slot among them
(never, in a reachable state: R57) is left out. -/
def ringBytes (n : Nat) (r : Ring) : List Byte :=
  (List.range (ringCount n r)).filterMap fun k => Memory.read r.buf ((r.get + k) % n)

/-! ## Timers (R30, R252) -/

/-- The three timers of R252. -/
inductive Timer where
  | idle
  | hb
  | tick
deriving DecidableEq, Repr

/-- `arm(t)`: the armed flag and the load value `D_t` (log entry 9). `due_t <- false` is Machine/Cycle.lean's. -/
def arm (t : Timer) (s : State) : State :=
  match t with
  | .idle => { s with idleArmed := true, idleCnt := s.cfg.tIdle }
  | .hb => { s with hbArmed := true, hbCnt := s.cfg.tHb }
  | .tick => { s with tickArmed := true, tickCnt := s.cfg.halfBit }

/-- `disarm(t)`: the count stays (R252). -/
def disarm (t : Timer) (s : State) : State :=
  match t with
  | .idle => { s with idleArmed := false }
  | .hb => { s with hbArmed := false }
  | .tick => { s with tickArmed := false }

/-! ## Responses (R12, R77, R82) -/

/-- `respond(code, data)`. -/
def respond (code : RespCode) (data : RespData) (s : State) : State := { s with resp := some ⟨code, data⟩ }

/-- `raise E`: the command ends with the code `E`, no data and no other change of state (R12, R300). -/
def raise (code : RespCode) (s : State) : State := respond code .none s

/-- `refuse(w)` of R82: the code REFUSED and the model-only mark; no change to the hardware state. -/
def refuse (s : State) : State := respond .refused .none { s with refused := true }

/-! ## Reset (R340, R341) -/

/-- A cycle with `rst = 1`: every field takes its reset value (R43), no response is presented, and the mark `refused` is
unaffected (R341). The parameters are not state, and the environment's later inputs are its own. -/
def resetInput (s : State) : State := { State.resetWith s.cfg with refused := s.refused, inputs := s.inputs }

end Sys2Proof.Machine
end

