-- ==== Sys2Proof/Machine/Flags.lean ====
section
/-! DEFINITION. The flags and codes software reads: the code of LineState (spec/00_scope.md R13), the computed flags
(spec/10_state.md R40), the status word (spec/30_encoding.md R83, spec/47_host_port.md R280), the query predicates
(spec/40_line_monitor.md R103) and the response codes (spec/60_exceptions.md R300). -/

namespace Sys2Proof.Machine

/-- R13: `IDLE = 0b00`, `BUSY = 0b01`, `COLLISION = 0b10`. -/
def LineState.enc : LineState → BitVec 2
  | .idle => 0b00#2
  | .busy => 0b01#2
  | .collision => 0b10#2

/-- R103 `isIdle()`. -/
def isIdle (s : State) : Bool := s.ls == .idle

/-- R103 `isBusy()`. -/
def isBusy (s : State) : Bool := s.ls == .busy

/-- R103 `isCollision()`. -/
def isCollision (s : State) : Bool := s.ls == .collision

/-- R40: `TX_PENDING = not RingEmpty(s.txRing)`. -/
def txPending (s : State) : Bool := !ringEmpty s.txRing

/-- R40: `RX_AVAIL = not RingEmpty(s.rxRing)`. -/
def rxAvail (s : State) : Bool := !ringEmpty s.rxRing

/-- `(f ? 1 : 0) << k` of R280. -/
def flagBit (f : Bool) (k : Nat) : Byte := (if f then 1#8 else 0#8) <<< k

/-- The F-STATUS word (R83), as R280 computes it. -/
def statusWord (s : State) : Byte :=
  s.ls.enc.setWidth 8 ||| flagBit s.txActive 2 ||| flagBit (txPending s) 3 ||| flagBit s.txAborted 4 |||
    flagBit (rxAvail s) 5 ||| flagBit s.rxOverflow 6 ||| flagBit s.lastLevel 7

/-- The code of R300's table. -/
def RespCode.toByte : RespCode → Byte
  | .ok => 0x00#8
  | .payloadTooLarge => 0x01#8
  | .tooShort => 0x02#8
  | .lengthMismatch => 0x03#8
  | .badCrcSentinel => 0x04#8
  | .crcMismatch => 0x05#8
  | .queueFull => 0x06#8
  | .empty => 0x07#8
  | .refused => 0xFF#8

end Sys2Proof.Machine
end

