-- ==== Sys2Proof/Machine/Operands.lean ====
section
/-! DEFINITION. The immediates an operation reads bit by bit (spec/30_encoding.md R79), and the order of a symbol's two bytes in the
transmit ring (spec/20_memory.md R52, R60). -/

namespace Sys2Proof.Machine

/-- R79: mask bit 4 (`A`) clears `txAborted`. -/
def maskClearsAborted (mask : Byte) : Bool := mask.getLsbD 4

/-- R79: mask bit 6 (`M`) clears `rxOverflow`. -/
def maskClearsOverflow (mask : Byte) : Bool := mask.getLsbD 6

/-- R52: a symbol is stored as its bits 15:8 and then its bits 7:0. -/
def symbolBytes (sym : Word16) : List Byte := [sym.extractLsb' 8 8, sym.extractLsb' 0 8]

end Sys2Proof.Machine
end

