-- ==== Sys2Proof/Machine/HostPort.lean ====
section
/-! DEFINITION. The status and flag commands of the host port (spec/47_host_port.md R280, R281). -/

namespace Sys2Proof.Machine

/-- `STATUS` (R280): no side effect but the response (R64). -/
def execStatus (s : State) : Result := .next (respond .ok (.byte (statusWord s)) s)

/-- The clears of `CLRF` (R281). -/
def clearFlags (mask : Byte) (s : State) : State :=
  { s with
    txAborted := if maskClearsAborted mask then false else s.txAborted
    rxOverflow := if maskClearsOverflow mask then false else s.rxOverflow }

/-- `CLRF mask` (R281). A mask with other bits set is refused (R82). -/
def execClrf (mask : Byte) (s : State) : Result :=
  if clrfMaskOk mask then .next (respond .ok .none (clearFlags mask s)) else .next (refuse s)

end Sys2Proof.Machine
end

