-- ==== Sys2Proof/Machine/Receiver.lean ====
section
/-! DEFINITION. The receiver and Manchester decoder (spec/45_receiver.md). -/

namespace Sys2Proof.Machine

/-- The sampling line of `rxEdge` (R222): the `k`-th bit of the byte goes to position `7 - k`, by assignment. -/
def sampleBit (l : Bit) (s : State) : State := { s with rxByte := setBit s.rxByte (7 - s.rxCursor.val) l }

/-- The push of a completed byte (R222, R223): a full ring drops it and sets the sticky flag. -/
def pushByte (s : State) : Result :=
  match ringPut s.cfg.nRx s.rxRing s.rxByte with
  | .stored r => .next { s with rxRing := r }
  | .full => .next { s with rxOverflow := true }
  | .noSlot => .fault .noSuchSlot

/-- The cursor part of `rxEdge` (R222): the eighth bit completes the byte. -/
def advanceCursor (s : State) : Result :=
  if s.rxCursor = 7 then andThen (pushByte s) fun s => .next { s with rxCursor := 0 }
  else .next { s with rxCursor := s.rxCursor + 1 }

/-- `rxEdge(L)` of R222: a data edge samples, a boundary edge does not. -/
def rxEdge (l : Bit) (s : State) : Result :=
  if s.expData then
    andThen (advanceCursor (sampleBit l s)) fun s => .next (arm .hb { s with expData := false })
  else .next (disarm .hb { s with expData := true })

/-- `rxBoundary()` of R225. -/
def rxBoundary (s : State) : State := disarm .hb { s with rxCursor := 0, rxByte := 0x00#8, expData := true }

/-- `HB_TO` (R224). -/
def execHbTo (s : State) : Result :=
  if s.hbArmed then .next { disarm .hb s with expData := true } else .fault .hbToNotAdmitted

/-- `RXGET` (R226). -/
def execRxget (s : State) : Result :=
  if ringEmpty s.rxRing then .next (raise .empty s)
  else
    match ringGet s.cfg.nRx s.rxRing with
    | .got b r => .next (respond .ok (.byte b) { s with rxRing := r })
    | .unwritten => .fault .unwrittenSlot
    | .noSlot => .fault .noSuchSlot

end Sys2Proof.Machine
end

