-- ==== Sys2Proof/Machine/Monitor.lean ====
section
/-! DEFINITION. The line monitor (spec/40_line_monitor.md). -/

namespace Sys2Proof.Machine

/-- The monitor part of `EDGE L` (R100): effects (1) to (3) in the source's order. -/
def monitorEdge (l : Bit) (s : State) : State := { arm .idle s with lastLevel := l, ls := .busy }

/-- `EDGE L` (R100): the monitor, then the receiver. Always admitted, for either level. -/
def execEdge (l : Bit) (s : State) : Result := rxEdge l (monitorEdge l s)

/-- `IDLE_TO` (R101). -/
def execIdleTo (s : State) : Result :=
  if s.idleArmed then
    if s.lastLevel = s.cfg.releasedLevel then .next (rxBoundary { disarm .idle s with ls := .idle })
    else .next { disarm .idle s with ls := .collision }
  else .fault .idleToNotAdmitted

end Sys2Proof.Machine
end

