-- ==== Sys2Proof/Machine/Crc.lean ====
section
/-! DEFINITION. The CRC-8 codec (spec/41_crc8.md). -/

namespace Sys2Proof.Machine

/-- `CRC_POLY` of R5: x^8+x^2+x^1+x^0 with the implicit x^8 dropped. -/
def crcPoly : Byte := 0x07#8

/-- `crcShift` of R120, with the polynomial as an argument (R121). -/
def crcShift (poly c : Byte) : Byte := if c.getLsbD 7 then (c <<< 1) ^^^ poly else c <<< 1

/-- `crcShift^8` of R121. -/
def crcShift8 (poly c : Byte) : Byte := (crcShift poly)^[8] c

/-- A 256-entry table (R121), entry 0 first. -/
abbrev Table := List Byte

/-- `buildTable(poly)` of R121. -/
def buildTable (poly : Byte) : Table := (List.range 256).map fun v => crcShift8 poly (BitVec.ofNat 8 v)

/-- `table[x]`. -/
def tableAt (t : Table) (x : Byte) : Byte := t.getD x.toNat 0#8

/-- `CRC_TABLE` of R38 and R121. -/
def crcTable : Table := buildTable crcPoly

/-- `compute(table, bytes)` of R122. -/
def compute (t : Table) (bs : List Byte) : Byte := bs.foldl (fun crc b => tableAt t (crc ^^^ b)) 0x00#8

/-- `crc8(bytes)` of R122. -/
def crc8 (bs : List Byte) : Byte := compute crcTable bs

/-- `computeBitwise(bytes)` of R123, the bit-at-a-time reference. -/
def computeBitwise (bs : List Byte) : Byte :=
  bs.foldl (fun crc b => (crcShift crcPoly)^[8] (crc ^^^ b)) 0x00#8

/-- `CRC8 bytes` (R124). -/
def execCrc8 (bs : List Byte) (s : State) : Result := .next (respond .ok (.byte (crc8 bs)) s)

end Sys2Proof.Machine
end

