-- ==== Sys2Proof/Machine/Framer.lean ====
section
/-! DEFINITION. The packet framer (spec/42_framer.md), over the frame layout of spec/30_encoding.md R72. -/

namespace Sys2Proof.Machine

/-! ## The constants of spec/00_scope.md R5 and R6 -/

/-- `SENTINEL`. -/
def sentinel : Byte := 0xAA#8

/-- `HDR_SIZE`. -/
def hdrSize : Nat := 6

/-- `TRAILER_SIZE`. -/
def trailerSize : Nat := 1

/-- `MAX_PAYLOAD`. -/
def maxPayload : Nat := 255

/-- `SYNC`. -/
def syncByte : Byte := 0x55#8

/-- `VERSION`. -/
def versionByte : Byte := 0x01#8

/-- `CRC_ON_BYTE`. -/
def crcOnByte : Byte := 0x01#8

/-! ## Functions -/

/-- `create` of R140; none is `PayloadTooLarge`. -/
def create (src dest : Byte) (crcEnabled : Bool) (payload : List Byte) : Option Header :=
  if payload.length > maxPayload then none
  else some
    { sync := syncByte, version := versionByte, src := src, dest := dest
      length := BitVec.ofNat 8 payload.length, crcEnabled := crcEnabled, payload := payload
      crc8 := if crcEnabled then crc8 payload else sentinel }

/-- `serialize` of R141. -/
def serialize (h : Header) : List Byte :=
  [h.sync, h.version, h.src, h.dest, h.length, if h.crcEnabled then crcOnByte else 0x00#8] ++ h.payload ++ [h.crc8]

/-- `ParseError` of R13. -/
inductive ParseError where
  | tooShort
  | lengthMismatch
  | badCrcSentinel
deriving DecidableEq, Repr

/-- `buf[k]`. -/
def byteAt (buf : List Byte) (k : Nat) : Byte := buf.getD k 0#8

/-- `parse` of R143: three checks, the first that fails decides. Sizes are of unbounded width (R15). -/
def parse (buf : List Byte) : Except ParseError Header :=
  if buf.length < hdrSize then .error .tooShort
  else
    let length := byteAt buf 4
    if hdrSize + length.toNat + trailerSize > buf.length then .error .lengthMismatch
    else
      let ce := byteAt buf 5 != 0x00#8
      let trailer := byteAt buf (hdrSize + length.toNat)
      if !ce && trailer != sentinel then .error .badCrcSentinel
      else .ok
        { sync := byteAt buf 0, version := byteAt buf 1, src := byteAt buf 2, dest := byteAt buf 3
          length := length, crcEnabled := ce, payload := (buf.drop hdrSize).take length.toNat, crc8 := trailer }

/-- `confirmCrc` of R145. -/
def confirmCrc (h : Header) : Bool := if h.crcEnabled then crc8 h.payload == h.crc8 else true

/-- The response code of each parse error (R147, R300). -/
def ParseError.code : ParseError → RespCode
  | .tooShort => .tooShort
  | .lengthMismatch => .lengthMismatch
  | .badCrcSentinel => .badCrcSentinel

/-! ## Commands -/

/-- `FRAME src, dest, ce, payload` (R146). -/
def execFrame (src dest : Byte) (crcEnabled : Bool) (payload : List Byte) (s : State) : Result :=
  match create src dest crcEnabled payload with
  | none => .next (raise .payloadTooLarge s)
  | some h => .next (respond .ok (.bytes (serialize h)) s)

/-- `PARSE buffer` (R147). -/
def execParse (buffer : List Byte) (s : State) : Result :=
  match parse buffer with
  | .error e => .next (raise e.code s)
  | .ok h => .next (respond .ok (.header h) s)

/-- `CONFIRM hdr` (R148). A header that is not well formed is refused (R81). -/
def execConfirm (hdr : Header) (s : State) : Result :=
  if hdr.wf then
    if confirmCrc hdr then .next (respond .ok .none s) else .next (raise .crcMismatch s)
  else .next (refuse s)

end Sys2Proof.Machine
end

