-- ==== Sys2Proof/Machine/Manchester.lean ====
section
/-! DEFINITION. The Manchester encoder (spec/43_manchester.md), over the symbol of spec/30_encoding.md R70 and the slot stream of R71. -/

namespace Sys2Proof.Machine

/-- `halfPair` of R170: the two half-bit slot levels of a data bit, in time order. -/
def halfPair (b : Bit) : Bit × Bit := if b then (false, true) else (true, false)

/-- One turn of `encodeByte`'s loop (R172): the earlier slot goes to the higher bit. -/
def placePair (v : Byte) (sym : Word16) (i : Nat) : Word16 :=
  setBit (setBit sym (2 * i + 1) (halfPair (v.getLsbD i)).1) (2 * i) (halfPair (v.getLsbD i)).2

/-- `encodeByte` of R172, "from bit 0 upward". -/
def encodeByte (v : Byte) : Word16 := (List.range 8).foldl (placePair v) 0x0000#16

/-- `spread(v)` of R172: `v[i]` at bit `2i` and 0 elsewhere. -/
def spread (v : Byte) : Word16 := (List.range 8).foldl (fun x i => setBit x (2 * i) (v.getLsbD i)) 0x0000#16

/-- `decodeSymbol` of R173(b): the second slot of each pair. The hardware decodes from edges; this is for reasoning (R173(d)). -/
def decodeSymbol (sym : Word16) : Byte := (List.range 8).foldl (fun v i => setBit v i (sym.getLsbD (2 * i))) 0x00#8

/-- R70: a symbol is valid when every pair is `0b01` or `0b10`. -/
def validSymbol (sym : Word16) : Bool := (List.range 8).all fun i => sym.getLsbD (2 * i + 1) != sym.getLsbD (2 * i)

/-- The 16 slots of a symbol in time order: bits 15, 14, ..., 0 (R71, R176). -/
def symbolSlots (sym : Word16) : List Bit := (List.range 16).map fun k => sym.getLsbD (15 - k)

/-- F-LINE (R71): the slots of the bytes of a frame, in frame order. -/
def wireSlots (bs : List Byte) : List Bit := bs.flatMap fun b => symbolSlots (encodeByte b)

/-- `ENCODE v` (R175). -/
def execEncode (v : Byte) (s : State) : Result := .next (respond .ok (.word (encodeByte v)) s)

end Sys2Proof.Machine
end

