-- ==== Sys2Proof/Machine/Transmitter.lean ====
section
/-! DEFINITION. The transmitter and bus-access controller (spec/44_transmitter.md). -/

namespace Sys2Proof.Machine

/-! ## Internal actions -/

/-- The first part of `driveNext` (R197): the next ring byte, when no bit is left. -/
def loadShift (s : State) : Result :=
  if s.txBitsLeft = 0 then
    match ringGet s.cfg.nTx s.txRing with
    | .got b r => .next { s with txShift := b, txBitsLeft := 8, txRing := r }
    | .unwritten => .fault .unwrittenSlot
    | .noSlot => .fault .noSuchSlot
  else .next s

/-- The second part of `driveNext` (R197): the most significant bit goes on the line. -/
def driveBit (s : State) : State :=
  { s with txLevel := s.txShift.getLsbD 7, txEn := true, txShift := s.txShift <<< 1, txBitsLeft := s.txBitsLeft - 1 }

/-- `driveNext` of R197. -/
def driveNext (s : State) : Result := andThen (loadShift s) fun s => .next (driveBit s)

/-- `release()` of R12: stops driving, and the level output is the released level (R35). -/
def release (s : State) : State := { s with txEn := false, txLevel := s.cfg.releasedLevel }

/-- `txRelease` of R198. -/
def txRelease (s : State) : State :=
  { disarm .tick { release s with txActive := false } with txShift := 0x00#8, txBitsLeft := 0 }

/-- `txAbort` of R196. -/
def txAbort (s : State) : State := { txRelease { s with txRing := ringClear s.txRing } with txAborted := true }

/-! ## Operations -/

/-- The ring bytes of a frame (R52, R190): each byte's symbol, high byte first, in frame order. -/
def frameSymbols (wire : List Byte) : List Byte := wire.flatMap fun b => symbolBytes (encodeByte b)

/-- R190's second check: a message is queued or in flight, or `2*n` symbol bytes do not fit. -/
def queueBlocked (n : Nat) (s : State) : Bool :=
  s.txActive || !ringEmpty s.txRing || decide (ringFree s.cfg.nTx s.txRing < 2 * n)

/-- `ENQ payload` (R190). All or nothing (R63): where a put could still meet a full ring, which the check rules out in every
state with its cursors in range, nothing is queued (log entry 19). -/
def execEnq (payload : List Byte) (s : State) : Result :=
  match create s.cfg.srcId s.cfg.destId s.cfg.crcEn payload with
  | none => .next (raise .payloadTooLarge s)
  | some h =>
    if queueBlocked (serialize h).length s then .next (raise .queueFull s)
    else
      match ringPutAll s.cfg.nTx s.txRing (frameSymbols (serialize h)) with
      | .stored r => .next (respond .ok .none { s with txRing := r })
      | .full => .next (raise .queueFull s)
      | .noSlot => .fault .noSuchSlot

/-- R194's admission condition, which is also step 7's in R253. -/
def startReady (s : State) : Bool := !s.txActive && !ringEmpty s.txRing && s.ls == .idle

/-- `START` (R194). -/
def execStart (s : State) : Result :=
  if startReady s then driveNext (arm .tick { s with txActive := true }) else .fault .startNotAdmitted

/-- `TICK` (R195). Collision is checked before exhaustion (R306). -/
def execTick (s : State) : Result :=
  if s.tickArmed then
    if s.ls = .collision then .next (txAbort s)
    else if s.txBitsLeft = 0 ∧ ringEmpty s.txRing = true then .next (txRelease s)
    else driveNext s
  else .fault .tickNotAdmitted

end Sys2Proof.Machine
end

