-- ==== Sys2Proof/Machine/Dispatch.lean ====
section
/-! DEFINITION. One arm per constructor of Instr, each one call of its meaning. -/

namespace Sys2Proof.Machine

def exec (i : Instr) (s : State) : Host.Outcome State Fault Refusal :=
  match i with
  | .edge l => Sys2Proof.Machine.execEdge l s
  | .idleTo => Sys2Proof.Machine.execIdleTo s
  | .hbTo => Sys2Proof.Machine.execHbTo s
  | .tick => Sys2Proof.Machine.execTick s
  | .start => Sys2Proof.Machine.execStart s
  | .enq payload => Sys2Proof.Machine.execEnq payload s
  | .rxget => Sys2Proof.Machine.execRxget s
  | .status => Sys2Proof.Machine.execStatus s
  | .clrf mask => Sys2Proof.Machine.execClrf mask s
  | .crc8 bytes => Sys2Proof.Machine.execCrc8 bytes s
  | .encode v => Sys2Proof.Machine.execEncode v s
  | .frame src dest crcEnabled payload => Sys2Proof.Machine.execFrame src dest crcEnabled payload s
  | .parse buffer => Sys2Proof.Machine.execParse buffer s
  | .confirm hdr => Sys2Proof.Machine.execConfirm hdr s

end Sys2Proof.Machine
end

