-- ==== Sys2Proof/Machine/Port.lean ====
section
/-! DEFINITION. How a command word reaches its operation: the host port of the cycle layer (spec/47_host_port.md R282,
spec/46_cycle_layer.md R258), and the environment of the event layer (spec/30_encoding.md R75, R258's last sentence). -/

namespace Sys2Proof.Machine

/-- The admission conditions of R100, R101, R194, R195 and R224; a host command is always admitted. -/
def admitted (i : Instr) (s : State) : Bool :=
  match i with
  | .edge _ => true
  | .idleTo => s.idleArmed
  | .hbTo => s.hbArmed
  | .tick => s.tickArmed
  | .start => startReady s
  | .enq _ => true
  | .rxget => true
  | .status => true
  | .clrf _ => true
  | .crc8 _ => true
  | .encode _ => true
  | .frame _ _ _ _ => true
  | .parse _ => true
  | .confirm _ => true

/-- The event layer: the environment presents a word. A legal word is executed where its operation is admitted. An event that is
not admitted "has no step" (R101): it does not happen, and the machine waits for the next presentation (log entry 5). -/
def present (c : Command) (s : State) : Result :=
  match decode c with
  | .error _ => .next (refuse s)
  | .ok i => if admitted i s then exec i s else .next s

/-- The host port of the cycle layer, R282's `execute(w, operand)`; an event word is refused (R258). -/
def execute (c : Command) (s : State) : Result :=
  if isEventWord c.word then .next (refuse s)
  else
    match decode c with
    | .error _ => .next (refuse s)
    | .ok i => exec i s

end Sys2Proof.Machine
end

