-- ==== Sys2Proof/Machine/Cycle.lean ====
section
/-! DEFINITION. The cycle layer: one clock cycle (spec/46_cycle_layer.md R250 to R255, spec/70_reset_and_hazards.md R340). -/

namespace Sys2Proof.Machine

/-! ## The line (R255) -/

/-- What one station puts on a wired-AND line: its level while it drives, and 1 while it does not. -/
def driveOf (en level : Bit) : Bit := if en then level else true

/-- `line_in` of a cycle. The outputs are registered, so they are those of the state before the cycle. -/
def lineIn (src : LineSource) (s : State) : Bit :=
  match src with
  | .driven l => l
  | .loopback => if s.txEn then s.txLevel else s.cfg.releasedLevel
  | .shared others => driveOf s.txEn s.txLevel && others.all fun o => driveOf o.1 o.2

/-! ## The steps of a cycle (R253) -/

/-- Step 1: every armed counter counts down. -/
def countTimers (s : State) : State :=
  { s with
    idleCnt := if s.idleArmed then s.idleCnt - 1 else s.idleCnt
    hbCnt := if s.hbArmed then s.hbCnt - 1 else s.hbCnt
    tickCnt := if s.tickArmed then s.tickCnt - 1 else s.tickCnt }

/-- `due_t` of R252, read after step 1. It exists only within the cycle and is not state. -/
def due (t : Timer) (s : State) : Bool :=
  match t with
  | .idle => s.idleArmed && s.idleCnt == 0
  | .hb => s.hbArmed && s.hbCnt == 0
  | .tick => s.tickArmed && s.tickCnt == 0

/-- Step 2: an edge is a level that differs from the level of the cycle before (R251). -/
def edgePhase (l : Bit) (s : State) : Result :=
  if l = s.prevLevel then .next s else exec (.edge l) { s with prevLevel := l }

/-- Step 3. -/
def idlePhase (dueIdle : Bool) (s : State) : Result :=
  if dueIdle && s.idleArmed then exec .idleTo s else .next s

/-- Step 4. -/
def hbPhase (dueHb : Bool) (s : State) : Result := if dueHb && s.hbArmed then exec .hbTo s else .next s

/-- The reload of step 5: the next tick is `H` cycles later. -/
def reloadTick (s : State) : State := if s.tickArmed then { s with tickCnt := s.cfg.halfBit } else s

/-- Step 5. -/
def tickPhase (dueTick : Bool) (s : State) : Result :=
  if dueTick && s.tickArmed then andThen (exec .tick s) fun s => .next (reloadTick s) else .next s

/-- Step 6. -/
def hostPhase (cmd : Option Command) (s : State) : Result :=
  match cmd with
  | none => .next s
  | some c => execute c s

/-- Step 7. -/
def startPhase (s : State) : Result := if startReady s then exec .start s else .next s

/-- Steps 2 to 7 after step 1. An `EDGE` arms the idle timer and arms or disarms the half-bit timer, and either clears the due
flag (R252), so neither timer is due in a cycle with an edge; the guards of steps 3 to 5 cover every other clearing. Two sentences of
the spec differ from what this order gives, and the model follows the order: R306's on an `ENQ` in the cycle of an ending `TICK` (log
entry 18), and R285's on when a frame's first byte completes (log entry 24). DEDUCED. -/
def runPhases (l : Bit) (cmd : Option Command) (s : State) : Result :=
  let noEdge := l == s.prevLevel
  andThen (edgePhase l s) fun s1 =>
  andThen (idlePhase (due .idle s && noEdge) s1) fun s2 =>
  andThen (hbPhase (due .hb s && noEdge) s2) fun s3 =>
  andThen (tickPhase (due .tick s) s3) fun s4 =>
  andThen (hostPhase cmd s4) fun s5 =>
  startPhase s5

/-- One clock cycle. With `rst = 1` no event runs and a command is dropped with no response (R340). Without a command no
response is presented (R282). -/
def cycle (c : CycleInput) (s : State) : Result :=
  if c.rst then .next (resetInput s)
  else runPhases (lineIn c.line s) c.cmd (countTimers { s with resp := none })

/-- The cycle of a station that nothing outside acts on: no reset, no command, and its own line (R255, "Single station"). -/
def quietCycle : CycleInput := ⟨false, .loopback, none⟩

/-- One input of the environment. A word in the event layer replaces the response of the word before (R77). -/
def runInput (i : Input) (s : State) : Result :=
  match i with
  | .word c => present c { s with resp := none }
  | .cycle c => cycle c s

/-- The next input. When the environment has presented everything, the clock goes on (R313) with nothing outside acting
(log entry 4). -/
def runNext (s : State) : Result :=
  match s.inputs with
  | [] => cycle quietCycle s
  | i :: rest => runInput i { s with inputs := rest }

end Sys2Proof.Machine
end

