-- ==== Sys2Proof/Machine/Step.lean ====
section
/-! DEFINITION. One step of the machine: the next input of the environment, a word of the event layer or a clock cycle (spec/00_scope.md
R4). The block has no program counter (spec/10_state.md R21): its instructions are presented to it. -/

namespace Sys2Proof.Machine

/-- One step. -/
def step (s : State) : Host.Outcome State Fault Refusal := runNext s

/-- `s` with a word of the opcode table presented next in the event layer, beside an operand of zeros (log entries 3 and 11). -/
def State.withFetchWord (s : State) (nbits w : Nat) : State :=
  { s with inputs := .word (tableCommand nbits w) :: s.inputs }

end Sys2Proof.Machine
end

