-- ==== Sys2Proof/Machine/Network.lean ====
section
/-! DEFINITION. Several stations on one line (spec/46_cycle_layer.md R255, R256, spec/60_exceptions.md R311, spec/92_eei_decisions.md
D46): a list of stations that share one clock, one half-bit period, one reset and one wired-AND line, each with its own state,
other parameters, rings and host. `step` runs one station; this file says how stations start and run together (log entry 14). -/

namespace Sys2Proof.Machine

/-- R255: the wired-AND of every station's driven level, 1 where none drives. -/
def networkLine (stations : List State) : Bit := stations.all fun s => driveOf s.txEn s.txLevel

/-! ## Each station's cycle -/

/-- What one station's reset input and host present in a cycle. -/
structure StationInput where
  rst : Bool
  cmd : Option Command
deriving DecidableEq, Repr

/-- One station's cycle on a shared line. -/
def stationCycle (line : Bit) (i : StationInput) (s : State) : Result := cycle ⟨i.rst, .driven line, i.cmd⟩ s

/-- Every station's cycle, in the order given; a station without an input gets none (`rst = 0`, no command). A stop of one station
stops the network. -/
def stationCycles (line : Bit) (inputs : List StationInput) (stations : List State) :
    Host.Outcome (List State) Fault Refusal :=
  match stations with
  | [] => .next []
  | s :: rest =>
    match stationCycle line (inputs.headD ⟨false, none⟩) s with
    | .fault e => .fault e
    | .refused e => .refused e
    | .next s' =>
      match stationCycles line inputs.tail rest with
      | .fault e => .fault e
      | .refused e => .refused e
      | .next rest' => .next (s' :: rest')

/-- One cycle of stations on one line whose reset inputs may differ (R311); the line is that of their outputs before the cycle. -/
def sharedLineCycle (inputs : List StationInput) (stations : List State) : Host.Outcome (List State) Fault Refusal :=
  stationCycles (networkLine stations) inputs stations

/-! ## The network of R256 -/

/-- A network at the start of a run: every station is in the reset state in the same cycle, and all have the one half-bit period
`halfBit` of their shared `clk` (R256). The other parameters are each station's own (R311). -/
def networkStart (halfBit : Nat) (configs : List Config) : List State :=
  configs.map fun c => State.resetWith { c with halfBit := halfBit }

/-- What reaches a network in a cycle: one `rst` for all of it (D46, "reset together"), and each host's command, in the stations'
order; a station beyond the list gets none. -/
structure NetworkInput where
  rst : Bool
  cmds : List (Option Command)
deriving DecidableEq, Repr

/-- The inputs of `n` stations under one `rst`. -/
def NetworkInput.forStations (i : NetworkInput) (n : Nat) : List StationInput :=
  (List.range n).map fun k => ⟨i.rst, (i.cmds[k]?).join⟩

/-- R256: one cycle of the whole network, every station on the same `clk` and `rst` with the same line level. -/
def networkCycle (i : NetworkInput) (stations : List State) : Host.Outcome (List State) Fault Refusal :=
  sharedLineCycle (i.forStations stations.length) stations

/-- The cycles of a network, one after the other. -/
def networkCycles (is : List NetworkInput) (stations : List State) : Host.Outcome (List State) Fault Refusal :=
  match is with
  | [] => .next stations
  | i :: rest =>
    match networkCycle i stations with
    | .next stations' => networkCycles rest stations'
    | .fault e => .fault e
    | .refused e => .refused e

/-- A run of a network: its stations start from reset in the same cycle, with equal half-bit periods, and run on one clock (R256). -/
def networkRun (halfBit : Nat) (configs : List Config) (is : List NetworkInput) :
    Host.Outcome (List State) Fault Refusal :=
  networkCycles is (networkStart halfBit configs)

end Sys2Proof.Machine
end

