-- ==== Sys2Proof/Safety.lean ====
section
/-! DEFINITION. What a good state is (spec/10_state.md R42, spec/46_cycle_layer.md R259), and the runs and views claims are written in. -/

namespace Sys2Proof.Machine

/-! ## Invariants -/

/-- I1: `idleArmed` implies `ls = BUSY`. -/
abbrev I1 (s : State) : Prop := s.idleArmed = true → s.ls = .busy

/-- I2: `hbArmed` implies not `expData`. -/
abbrev I2 (s : State) : Prop := s.hbArmed = true → s.expData = false

/-- I3: `tickArmed = txActive`. -/
abbrev I3 (s : State) : Prop := s.tickArmed = s.txActive

/-- I4: a transmitter at rest releases the line and holds no bit. -/
abbrev I4 (s : State) : Prop :=
  s.txActive = false → s.txEn = false ∧ s.txLevel = s.cfg.releasedLevel ∧ s.txBitsLeft = 0

/-- I5: `txActive` implies `txEn = 1`. -/
abbrev I5 (s : State) : Prop := s.txActive = true → s.txEn = true

/-- I6 for a ring of size `n` with the facts it rests on: cursors in `0..n-1` (R51), slots in canonical form and in `0..n-1` (R50), and
every slot between the cursors written (R57). `RingCount <= n - 1` follows. -/
abbrev RingOk (n : Nat) (r : Ring) : Prop :=
  r.put < n ∧ r.get < n ∧ Memory.wf r.buf ∧ (∀ c ∈ r.buf, c.1 < n) ∧
    ∀ k < ringCount n r, (Memory.read r.buf ((r.get + k) % n)).isSome = true

/-- I7: a pending message waits only while the line is not IDLE. It holds after every cycle of the cycle layer. -/
abbrev I7 (s : State) : Prop := s.txActive = true ∨ ringEmpty s.txRing = true ∨ s.ls ≠ .idle

/-- R259: an armed counter lies between 1 and its load value. -/
abbrev CountersOk (s : State) : Prop :=
  (s.tickArmed = true → 1 ≤ s.tickCnt ∧ s.tickCnt ≤ s.cfg.halfBit) ∧
  (s.hbArmed = true → 1 ≤ s.hbCnt ∧ s.hbCnt ≤ s.cfg.tHb) ∧
  (s.idleArmed = true → 1 ≤ s.idleCnt ∧ s.idleCnt ≤ s.cfg.tIdle)

/-- The invariants of R42 that hold after every event (I1 to I6), with R259's counters and the parameter constraints of R7 and R9. -/
abbrev Inv (s : State) : Prop :=
  s.cfg.ok ∧ I1 s ∧ I2 s ∧ I3 s ∧ I4 s ∧ I5 s ∧ RingOk s.cfg.nRx s.rxRing ∧ RingOk s.cfg.nTx s.txRing ∧ CountersOk s

/-! ## Runs -/

/-- A run of the event layer: the instructions one after the other, each admitted when it runs (an event that is not admitted
stops the run with its fault). -/
def execAll (is : List Instr) (s : State) : Result :=
  match is with
  | [] => .next s
  | i :: rest => andThen (exec i s) (execAll rest)

/-- A run of the cycle layer. -/
def cycles (cs : List CycleInput) (s : State) : Result :=
  match cs with
  | [] => .next s
  | c :: rest => andThen (cycle c s) (cycles rest)

/-- No cycle of the run ends with the line in COLLISION. -/
def noCollision (cs : List CycleInput) (s : State) : Bool :=
  match cs with
  | [] => true
  | c :: rest =>
    match cycle c s with
    | .next t => t.ls != .collision && noCollision rest t
    | .fault _ => true
    | .refused _ => true

/-- A state without the fields that only the cycle layer has (R30, R36), for R254. -/
def eventView (s : State) : State := { s with idleCnt := 0, hbCnt := 0, tickCnt := 0, prevLevel := false }

/-! ## Views and scenarios -/

/-- The half-bit slots a transmission has still to drive: the bits left of the current ring byte, then the ring's bytes, each most
significant bit first (R52, R197). -/
def pendingSlots (s : State) : List Bit :=
  (List.range s.txBitsLeft.val).map (fun k => s.txShift.getLsbD (7 - k)) ++
    (ringBytes s.cfg.nTx s.txRing).flatMap fun b => (List.range 8).map fun k => b.getLsbD (7 - k)

/-- The event that separates two data edges in R228: the boundary edge between equal bits, or the half-bit timeout. `cur` is the bit
just sampled and `next` the bit to come. -/
def separator (cur next : Bit) : Instr := if next = cur then .edge (!cur) else .hbTo

/-- R228's events for the bits of one byte, from bit `i` down to bit 0. -/
def bitEvents (v : Byte) (i : Nat) : List Instr :=
  match i with
  | 0 => [.edge (v.getLsbD 0)]
  | i + 1 => .edge (v.getLsbD (i + 1)) :: separator (v.getLsbD (i + 1)) (v.getLsbD i) :: bitEvents v i

/-- R228's events for a byte string: after a byte `v`, a boundary edge or a timeout, and then the events of the byte that follows. -/
def lineEvents (bs : List Byte) : List Instr :=
  match bs with
  | [] => []
  | [v] => bitEvents v 7
  | v :: u :: rest => bitEvents v 7 ++ separator (v.getLsbD 0) (u.getLsbD 7) :: lineEvents (u :: rest)

/-- R85 `DRAIN`: `RXGET` repeated until the code is `EMPTY` (at most `fuel` times), with the bytes read. -/
def drain (fuel : Nat) (s : State) : List Byte × Result :=
  match fuel with
  | 0 => ([], .next s)
  | fuel + 1 =>
    match exec .rxget s with
    | .next s' =>
      match s'.resp with
      | some ⟨.ok, .byte b⟩ => (b :: (drain fuel s').1, (drain fuel s').2)
      | _ => ([], .next s')
    | .fault e => ([], .fault e)
    | .refused e => ([], .refused e)

/-- The frame `ENQ payload` sends: R140's header under the station's parameters, serialized (R190). -/
def stationFrame (c : Config) (payload : List Byte) : List Byte :=
  [syncByte, versionByte, c.srcId, c.destId, BitVec.ofNat 8 payload.length, if c.crcEn then crcOnByte else 0x00#8] ++ payload ++
    [if c.crcEn then crc8 payload else sentinel]

/-- A cycle with `rst = 0` in which the test environment drives the line. -/
def drivenCycle (l : Bit) (cmd : Option Command) : CycleInput := ⟨false, .driven l, cmd⟩

end Sys2Proof.Machine
end

