-- ==== Sys2Proof/Certificates/Slice0/Obligations.lean ====
section
/-! DEFINITION. What is claimed of the model, each statement from the spec's numbered rules. -/

open Sys2Proof Sys2Proof.Machine

/-! ## Encoding (30_encoding.md) -/

/-- R78 to R81: words written out from the opcode map decode to their operations, and illegal words and operands decode to none. Two
things here are the model's choice and not the rules': that the crcEnabled operand of `FRAME` is a byte, 1 for true, with 2 ill formed
(log entry 10), and the names of the reasons, reservedOp, reservedImm, operandNotTaken, operandMissing and operandIllFormed (log entry
21). -/
def Obligations.CommandWordsDecode : Prop :=
  decode ⟨0x0001#16, .none⟩ = .ok (.edge false) ∧ decode ⟨0x0101#16, .none⟩ = .ok (.edge true) ∧
  decode ⟨0x0002#16, .none⟩ = .ok .idleTo ∧ decode ⟨0x0003#16, .none⟩ = .ok .hbTo ∧
  decode ⟨0x0004#16, .none⟩ = .ok .tick ∧ decode ⟨0x0005#16, .none⟩ = .ok .start ∧
  decode ⟨0x0010#16, .bytes [0x68#8, 0x69#8]⟩ = .ok (.enq [0x68#8, 0x69#8]) ∧
  decode ⟨0x0011#16, .none⟩ = .ok .rxget ∧ decode ⟨0x0012#16, .none⟩ = .ok .status ∧
  decode ⟨0x5013#16, .none⟩ = .ok (.clrf 0x50#8) ∧ decode ⟨0x5521#16, .none⟩ = .ok (.encode 0x55#8) ∧
  decode ⟨0x0020#16, .bytes []⟩ = .ok (.crc8 []) ∧ decode ⟨0x0023#16, .bytes []⟩ = .ok (.parse []) ∧
  decode ⟨0x0022#16, .frame 0xAA#8 0xBB#8 1#8 []⟩ = .ok (.frame 0xAA#8 0xBB#8 true []) ∧
  decode ⟨0x0024#16, .header ⟨0x55#8, 1#8, 1#8, 2#8, 0#8, true, [], 0#8⟩⟩ =
    .ok (.confirm ⟨0x55#8, 1#8, 1#8, 2#8, 0#8, true, [], 0#8⟩) ∧
  decode ⟨0x0000#16, .none⟩ = .error .reservedOp ∧ decode ⟨0x0025#16, .none⟩ = .error .reservedOp ∧
  decode ⟨0x0112#16, .none⟩ = .error .reservedImm ∧ decode ⟨0x2013#16, .none⟩ = .error .reservedImm ∧
  decode ⟨0x0012#16, .bytes []⟩ = .error .operandNotTaken ∧ decode ⟨0x0020#16, .none⟩ = .error .operandMissing ∧
  decode ⟨0x0022#16, .frame 1#8 2#8 2#8 []⟩ = .error .operandIllFormed

/-- R78 to R81: decoding the word and operand of any well-formed instruction gives it back, at every operand. (That `FRAME`'s crcEnabled
operand is encoded as a byte is the model's choice, log entry 10.) -/
def Obligations.DecodeEncodeRoundTrip : Prop :=
  ∀ i : Instr, i.wf = true → decode (encode i) = .ok i

/-- R80: a word and operand that decode have one meaning: the instruction is well formed and encodes to that word and operand. (That
`FRAME`'s crcEnabled operand is encoded as a byte is the model's choice, log entry 10.) -/
def Obligations.EncodeDecodeRoundTrip : Prop :=
  ∀ (c : Command) (i : Instr), decode c = .ok i → i.wf = true ∧ encode i = c

/-- R79: the match and mask of each operation over the whole word, and that no other word decodes. -/
def Obligations.WordsMatchTheirTableRow : Prop :=
  (∀ w : Word16, w &&& 0xFEFF#16 = 0x0001#16 → decodeWord w = .ok (.edge (w.getLsbD 8))) ∧
  (∀ w : Word16, w &&& 0x00FF#16 = 0x0021#16 → decodeWord w = .ok (.encode (w.extractLsb' 8 8))) ∧
  (∀ w : Word16, w &&& 0xAFFF#16 = 0x0013#16 → decodeWord w = .ok (.clrf (w.extractLsb' 8 8))) ∧
  decodeWord 0x0002#16 = .ok .idleTo ∧ decodeWord 0x0003#16 = .ok .hbTo ∧ decodeWord 0x0004#16 = .ok .tick ∧
  decodeWord 0x0005#16 = .ok .start ∧ decodeWord 0x0010#16 = .ok .enq ∧ decodeWord 0x0011#16 = .ok .rxget ∧
  decodeWord 0x0012#16 = .ok .status ∧ decodeWord 0x0020#16 = .ok .crc8 ∧ decodeWord 0x0022#16 = .ok .frame ∧
  decodeWord 0x0023#16 = .ok .parse ∧ decodeWord 0x0024#16 = .ok .confirm ∧
  ∀ (w : Word16) (op : Op), decodeWord w = .ok op →
    w &&& 0xFEFF#16 = 0x0001#16 ∨ w &&& 0x00FF#16 = 0x0021#16 ∨ w &&& 0xAFFF#16 = 0x0013#16 ∨
    w ∈ [0x0002#16, 0x0003#16, 0x0004#16, 0x0005#16, 0x0010#16, 0x0011#16, 0x0012#16, 0x0020#16, 0x0022#16, 0x0023#16,
      0x0024#16]

/-! ## A step and its inputs -/

/-- A step runs the decoded instruction: a word that decodes to an admitted instruction is executed. Around it the step takes the
word from the inputs and clears the response of the step before (log entries 3 and 8). -/
def Obligations.StepRunsThePresentedWord : Prop :=
  ∀ (c : Command) (i : Instr) (rest : List Input) (s : State),
    decode c = .ok i → admitted i { s with inputs := rest, resp := none } = true →
      step { s with inputs := .word c :: rest } = exec i { s with inputs := rest, resp := none }

/-- R101, R195, R194, R224: an event that is not admitted has no step. Its meaning stops by name, and `step` goes on without it: the
word is taken from the inputs and no hardware state changes (the model's choice, log entry 5). -/
def Obligations.UnadmittedEventHasNoStep : Prop :=
  (∀ s : State, s.idleArmed = false → exec .idleTo s = .fault .idleToNotAdmitted) ∧
  (∀ s : State, s.hbArmed = false → exec .hbTo s = .fault .hbToNotAdmitted) ∧
  (∀ s : State, s.tickArmed = false → exec .tick s = .fault .tickNotAdmitted) ∧
  (∀ s : State, (s.txActive = true ∨ ringEmpty s.txRing = true ∨ s.ls ≠ .idle) → exec .start s = .fault .startNotAdmitted) ∧
  ∀ (c : Command) (i : Instr) (rest : List Input) (s : State),
    decode c = .ok i → admitted i { s with inputs := rest, resp := none } = false →
      step { s with inputs := .word c :: rest } = .next { s with inputs := rest, resp := none }

/-- R82: an illegal word changes no hardware state, returns REFUSED (code 0xFF) and sets the model-only mark, in the event layer and
on the host port of the cycle layer. -/
def Obligations.IllegalWordIsRefused : Prop :=
  RespCode.refused.toByte = 0xFF#8 ∧
  ∀ (c : Command) (e : Illegal) (rest : List Input) (s : State), decode c = .error e →
    step { s with inputs := .word c :: rest } =
      .next { s with inputs := rest, refused := true, resp := some ⟨.refused, .none⟩ } ∧
    execute c s = .next { s with refused := true, resp := some ⟨.refused, .none⟩ }

/-- R258, R282: on the host port of the cycle layer a word with an event's `OP` is refused, and a legal command runs its operation. -/
def Obligations.HostPortRunsCommandsOnly : Prop :=
  (∀ (c : Command) (s : State), 0x01#8 ≤ c.word.extractLsb' 0 8 → c.word.extractLsb' 0 8 ≤ 0x05#8 →
    execute c s = .next { s with refused := true, resp := some ⟨.refused, .none⟩ }) ∧
  ∀ (c : Command) (i : Instr) (s : State), decode c = .ok i → i.isEvent = false → execute c s = exec i s

/-! ## Reset (10_state.md R43, 70_reset_and_hazards.md) -/

/-- R43: every field after reset, whatever the parameter values; `refused` is unchanged by reset and false at the start of a run. -/
def Obligations.ResetLeavesItsValues : Prop :=
  (∃ c : Config, State.reset = State.resetWith c) ∧
  (∀ s : State, (resetInput s).refused = s.refused) ∧
  ∀ c : Config,
    (State.resetWith c).ls = .idle ∧ (State.resetWith c).lastLevel = c.releasedLevel ∧
    (State.resetWith c).idleArmed = false ∧ (State.resetWith c).hbArmed = false ∧ (State.resetWith c).tickArmed = false ∧
    (State.resetWith c).idleCnt = 0 ∧ (State.resetWith c).hbCnt = 0 ∧ (State.resetWith c).tickCnt = 0 ∧
    (State.resetWith c).expData = true ∧ (State.resetWith c).rxCursor = 0 ∧ (State.resetWith c).rxByte = 0#8 ∧
    (State.resetWith c).rxOverflow = false ∧ (State.resetWith c).rxRing = ⟨[], 0, 0⟩ ∧
    (State.resetWith c).txActive = false ∧ (State.resetWith c).txShift = 0#8 ∧ (State.resetWith c).txBitsLeft = 0 ∧
    (State.resetWith c).txAborted = false ∧ (State.resetWith c).txEn = false ∧
    (State.resetWith c).txLevel = c.releasedLevel ∧ (State.resetWith c).txRing = ⟨[], 0, 0⟩ ∧
    (State.resetWith c).prevLevel = c.releasedLevel ∧ (State.resetWith c).refused = false

/-- R340, R341: a cycle with `rst = 1` takes every field to its reset value whatever the line and the host do; the parameters, the
mark `refused` and the environment's later inputs stay, and no response is presented. -/
def Obligations.ResetCycleResets : Prop :=
  ∀ (line : LineSource) (cmd : Option Command) (rest : List Input) (s : State),
    step { s with inputs := .cycle ⟨true, line, cmd⟩ :: rest } =
      .next { State.resetWith s.cfg with refused := s.refused, inputs := rest }

/-! ## Invariants -/

/-- R42, R259: the state after reset satisfies the invariants, whatever legal parameters. -/
def Obligations.ResetSatisfiesInvariants : Prop :=
  Inv State.reset ∧ ∀ c : Config, c.ok → Inv (State.resetWith c)

/-- R42 (I1 to I6), R259, R57: every step keeps the invariants, from every state that has them, whatever the environment presents
(a word of the event layer, legal or not, or a clock cycle with any line level, any command, or reset). -/
def Obligations.StepKeepsInvariants : Prop :=
  ∀ s t : State, Inv s → step s = .next t → Inv t

/-- R302, R313: nothing stops the block. From every state with the invariants, whatever the environment presents, a step answers a
next state. (For an event presented while not admitted this is the model's choice, log entry 5.) -/
def Obligations.NothingStopsTheBlock : Prop :=
  ∀ s : State, Inv s → ∃ t, step s = .next t

/-- R42 (I7): after every cycle, a pending message waits only while the line is not IDLE. -/
def Obligations.PendingMessageWaitsOnlyForTheLine : Prop :=
  ∀ (c : CycleInput) (s t : State), Inv s → cycle c s = .next t →
    t.txActive = true ∨ ringEmpty t.txRing = true ∨ t.ls ≠ .idle

/-- R341, R39: no step changes the configuration parameters, and no step clears the mark `refused`. -/
def Obligations.StepKeepsParametersAndMark : Prop :=
  ∀ s t : State, step s = .next t → t.cfg = s.cfg ∧ (s.refused = true → t.refused = true)

/-! ## Line monitor (40_line_monitor.md) -/

/-- R102: the complete transition table of `ls`. -/
def Obligations.LineStateTransitionTable : Prop :=
  State.reset.ls = .idle ∧
  (∀ (l : Bit) (s t : State), exec (.edge l) s = .next t → t.ls = .busy ∧ t.idleArmed = true) ∧
  (∀ s t : State, I1 s → exec .idleTo s = .next t →
    s.ls = .busy ∧ t.ls = if s.lastLevel = s.cfg.releasedLevel then .idle else .collision) ∧
  (∀ s : State, I1 s → s.ls ≠ .busy → exec .idleTo s = .fault .idleToNotAdmitted) ∧
  ∀ (i : Instr) (s t : State), (∀ l, i ≠ .edge l) → i ≠ .idleTo → exec i s = .next t → t.ls = s.ls

/-- R101, R225: an armed idle timeout disarms; on the released level it gives IDLE and the message-boundary reset, on the other it
gives COLLISION and leaves the receiver alone. Nothing else changes. -/
def Obligations.IdleTimeoutEndsAMessage : Prop :=
  (∀ s : State, s.idleArmed = true → s.lastLevel = s.cfg.releasedLevel →
    exec .idleTo s =
      .next { s with idleArmed := false, ls := .idle, rxCursor := 0, rxByte := 0#8, expData := true, hbArmed := false }) ∧
  ∀ s : State, s.idleArmed = true → s.lastLevel ≠ s.cfg.releasedLevel →
    exec .idleTo s = .next { s with idleArmed := false, ls := .collision }

/-! ## Receiver (45_receiver.md) -/

/-- R100, R222: an edge while a boundary edge is expected is not sampled. It re-arms the idle timeout, gives BUSY, disarms the half-bit
timeout and changes nothing else. -/
def Obligations.BoundaryEdgeIsNotSampled : Prop :=
  ∀ (l : Bit) (s : State), s.expData = false →
    exec (.edge l) s = .next { s with
      idleArmed := true, idleCnt := s.cfg.tIdle, lastLevel := l, ls := .busy, expData := true, hbArmed := false }

/-- R100, R222: a data edge before the byte's last bit writes the level after it at position `7 - rxCursor`, keeps the other bits,
advances the cursor and arms the half-bit timeout; nothing else changes. -/
def Obligations.DataEdgeSamplesOneBit : Prop :=
  ∀ (l : Bit) (s : State), s.expData = true → s.rxCursor ≠ 7 →
    ∃ b : Byte, (∀ k < 8, b.getLsbD k = if k = 7 - s.rxCursor.val then l else s.rxByte.getLsbD k) ∧
      exec (.edge l) s = .next { s with
        idleArmed := true, idleCnt := s.cfg.tIdle, lastLevel := l, ls := .busy, rxByte := b, rxCursor := s.rxCursor + 1,
        expData := false, hbArmed := true, hbCnt := s.cfg.tHb }

/-- R222, R56: the data edge of the eighth bit completes the byte and queues it last in a receive ring with room; nothing else of the
ring and no other slot changes. -/
def Obligations.LastDataEdgeDeliversTheByte : Prop :=
  ∀ (l : Bit) (s : State), RingOk s.cfg.nRx s.rxRing → s.expData = true → s.rxCursor = 7 → 0 < ringFree s.cfg.nRx s.rxRing →
    ∃ (b : Byte) (r : Ring), (∀ k < 8, b.getLsbD k = if k = 0 then l else s.rxByte.getLsbD k) ∧
      ringBytes s.cfg.nRx r = ringBytes s.cfg.nRx s.rxRing ++ [b] ∧ r.get = s.rxRing.get ∧
      (∀ a, a ≠ s.rxRing.put → Memory.read r.buf a = Memory.read s.rxRing.buf a) ∧
      exec (.edge l) s = .next { s with
        idleArmed := true, idleCnt := s.cfg.tIdle, lastLevel := l, ls := .busy, rxByte := b, rxRing := r, rxCursor := 0,
        expData := false, hbArmed := true, hbCnt := s.cfg.tHb }

/-- R223: a completed byte that finds the receive ring full is dropped, the ring and its cursors are unchanged and `rxOverflow` is
set; the receiver goes on as after any byte. -/
def Obligations.OverflowDropsTheNewestByte : Prop :=
  ∀ (l : Bit) (s : State), s.rxRing.put < s.cfg.nRx → s.rxRing.get < s.cfg.nRx → s.expData = true → s.rxCursor = 7 →
    ringFree s.cfg.nRx s.rxRing = 0 →
    ∃ b : Byte, (∀ k < 8, b.getLsbD k = if k = 0 then l else s.rxByte.getLsbD k) ∧
      exec (.edge l) s = .next { s with
        idleArmed := true, idleCnt := s.cfg.tIdle, lastLevel := l, ls := .busy, rxByte := b, rxOverflow := true,
        rxCursor := 0, expData := false, hbArmed := true, hbCnt := s.cfg.tHb }

/-- R224: an armed half-bit timeout disarms and forces the next edge to be a data edge; nothing else changes. -/
def Obligations.HalfBitTimeoutExpectsData : Prop :=
  ∀ s : State, s.hbArmed = true → exec .hbTo s = .next { s with hbArmed := false, expData := true }

/-- R228: the events of any byte string, presented to a receiver at the start of a byte with room for the string, are all admitted and
decode to it: exactly these bytes are queued, in order, and the receiver ends as R228 says. -/
def Obligations.DecodeSequenceDeliversTheBytes : Prop :=
  ∀ (bs : List Byte) (s : State), bs ≠ [] → RingOk s.cfg.nRx s.rxRing → s.expData = true → s.rxCursor = 0 →
    bs.length ≤ ringFree s.cfg.nRx s.rxRing →
    ∃ t, execAll (lineEvents bs) s = .next t ∧ ringBytes s.cfg.nRx t.rxRing = ringBytes s.cfg.nRx s.rxRing ++ bs ∧
      t.expData = false ∧ t.hbArmed = true ∧ t.rxCursor = 0 ∧ t.rxOverflow = s.rxOverflow

/-- R226: `RXGET` returns the oldest byte and takes it from the ring, or raises EMPTY and changes nothing. -/
def Obligations.RxgetReadsTheOldestByte : Prop :=
  (∀ s : State, ringEmpty s.rxRing = true → exec .rxget s = .next { s with resp := some ⟨.empty, .none⟩ }) ∧
  ∀ (s : State) (b : Byte) (rest : List Byte), RingOk s.cfg.nRx s.rxRing → ringBytes s.cfg.nRx s.rxRing = b :: rest →
    exec .rxget s = .next { s with
      rxRing := { s.rxRing with get := (s.rxRing.get + 1) % s.cfg.nRx }, resp := some ⟨.ok, .byte b⟩ } ∧
    ringBytes s.cfg.nRx { s.rxRing with get := (s.rxRing.get + 1) % s.cfg.nRx } = rest

/-- R85 (`DRAIN`), R227: reading until EMPTY returns the bytes of the receive ring in order and leaves it empty. -/
def Obligations.DrainReadsTheRingInOrder : Prop :=
  ∀ (fuel : Nat) (s : State), RingOk s.cfg.nRx s.rxRing → ringCount s.cfg.nRx s.rxRing < fuel →
    (drain fuel s).1 = ringBytes s.cfg.nRx s.rxRing ∧
    ∃ t, (drain fuel s).2 = .next t ∧ ringEmpty t.rxRing = true ∧ t.resp = some ⟨.empty, .none⟩

/-! ## CRC-8 (41_crc8.md) -/

/-- R123: the table and the bit-at-a-time reference agree on every byte sequence. -/
def Obligations.CrcTableAgreesWithBitwise : Prop :=
  ∀ bs : List Byte, compute crcTable bs = computeBitwise bs

/-- R125: linearity, leading zeros, residue, and single-bit errors: flipping any one bit changes the checksum, by the checksum of the
flipped bit alone, so `confirmCrc` detects every single-bit flip in a payload. -/
def Obligations.CrcLaws : Prop :=
  (∀ a b : List Byte, a.length = b.length → crc8 (List.zipWith (fun x y => x ^^^ y) a b) = crc8 a ^^^ crc8 b) ∧
  (∀ a : List Byte, crc8 (0#8 :: a) = crc8 a) ∧
  (∀ a : List Byte, crc8 (a ++ [crc8 a]) = 0#8) ∧
  (∀ (a b : List Byte) (x : Byte), ∀ k < 8,
    crc8 (a ++ (x ^^^ (1#8 <<< k)) :: b) = crc8 (a ++ x :: b) ^^^ crc8 ((1#8 <<< k) :: List.replicate b.length 0#8) ∧
    crc8 (a ++ (x ^^^ (1#8 <<< k)) :: b) ≠ crc8 (a ++ x :: b)) ∧
  ∀ (h : Header) (a b : List Byte) (x : Byte), ∀ k < 8, h.crcEnabled = true → h.payload = a ++ x :: b → confirmCrc h = true →
    confirmCrc { h with payload := a ++ (x ^^^ (1#8 <<< k)) :: b } = false

/-- R124: `CRC8` returns the checksum, here by the bit-at-a-time reference of R123, and writes no state but the response. -/
def Obligations.Crc8ReturnsTheChecksum : Prop :=
  ∀ (bs : List Byte) (s : State), exec (.crc8 bs) s = .next { s with resp := some ⟨.ok, .byte (computeBitwise bs)⟩ }

/-! ## Framer (42_framer.md) -/

/-- R146, R140, R141, R72: `FRAME` returns the frame byte by byte, or `PAYLOAD_TOO_LARGE` for more than 255 bytes. -/
def Obligations.FrameBuildsTheWireFrame : Prop :=
  (∀ (src dest : Byte) (ce : Bool) (p : List Byte) (s : State), p.length ≤ 255 →
    exec (.frame src dest ce p) s = .next { s with resp := some ⟨.ok, .bytes (
      [0x55#8, 0x01#8, src, dest, BitVec.ofNat 8 p.length, if ce then 0x01#8 else 0x00#8] ++ p ++
        [if ce then crc8 p else 0xAA#8])⟩ }) ∧
  ∀ (src dest : Byte) (ce : Bool) (p : List Byte) (s : State), 255 < p.length →
    exec (.frame src dest ce p) s = .next { s with resp := some ⟨.payloadTooLarge, .none⟩ }

/-- R143, R147: `PARSE` makes its three checks in order, and otherwise returns every field as read. -/
def Obligations.ParseChecksInOrder : Prop :=
  ∀ (buf : List Byte) (s : State),
    (buf.length < 6 → exec (.parse buf) s = .next { s with resp := some ⟨.tooShort, .none⟩ }) ∧
    (6 ≤ buf.length → buf.length < 6 + (buf.getD 4 0#8).toNat + 1 →
      exec (.parse buf) s = .next { s with resp := some ⟨.lengthMismatch, .none⟩ }) ∧
    (6 + (buf.getD 4 0#8).toNat + 1 ≤ buf.length → buf.getD 5 0#8 = 0#8 →
      buf.getD (6 + (buf.getD 4 0#8).toNat) 0#8 ≠ 0xAA#8 →
      exec (.parse buf) s = .next { s with resp := some ⟨.badCrcSentinel, .none⟩ }) ∧
    (6 + (buf.getD 4 0#8).toNat + 1 ≤ buf.length →
      (buf.getD 5 0#8 ≠ 0#8 ∨ buf.getD (6 + (buf.getD 4 0#8).toNat) 0#8 = 0xAA#8) →
      exec (.parse buf) s = .next { s with resp := some ⟨.ok, .header
        { sync := buf.getD 0 0#8, version := buf.getD 1 0#8, src := buf.getD 2 0#8, dest := buf.getD 3 0#8
          length := buf.getD 4 0#8, crcEnabled := decide (buf.getD 5 0#8 ≠ 0#8)
          payload := (List.range (buf.getD 4 0#8).toNat).map fun k => buf.getD (6 + k) 0#8
          crc8 := buf.getD (6 + (buf.getD 4 0#8).toNat) 0#8 }⟩ })

/-- R149, R142: parsing a serialized header gives it back field for field and its checksum confirms; a frame of a well-formed header
is `7 + length` bytes long, 7 to 262. -/
def Obligations.FramingRoundTrip : Prop :=
  (∀ (src dest : Byte) (ce : Bool) (p : List Byte), p.length ≤ 255 →
    ∃ h, create src dest ce p = some h ∧ h.wf = true ∧ parse (serialize h) = .ok h ∧ confirmCrc h = true ∧
      h.src = src ∧ h.dest = dest ∧ h.crcEnabled = ce ∧ h.payload = p) ∧
  ∀ h : Header, h.wf = true → (serialize h).length = 7 + h.length.toNat ∧ (serialize h).length ≤ 262

/-- R150: a buffer with the checksum disabled and a trailing byte other than the sentinel is rejected; a shorter one fails earlier. -/
def Obligations.SentinelRule : Prop :=
  (∀ buf : List Byte, 7 + (buf.getD 4 0#8).toNat ≤ buf.length → buf.getD 5 0#8 = 0#8 →
    buf.getD (6 + (buf.getD 4 0#8).toNat) 0#8 ≠ 0xAA#8 → parse buf = .error .badCrcSentinel) ∧
  ∀ buf : List Byte, buf.length < 7 + (buf.getD 4 0#8).toNat →
    parse buf = .error .tooShort ∨ parse buf = .error .lengthMismatch

/-- R144: `parse` ignores bytes beyond the frame, and checks none of `sync`, `version`, `src` and `dest`; six bytes are never enough. -/
def Obligations.ParseChecksNothingElse : Prop :=
  (∀ (buf extra : List Byte) (h : Header), parse buf = .ok h → parse (buf ++ extra) = .ok h) ∧
  (∀ (a b c d a' b' c' d' : Byte) (rest : List Byte) (h : Header), parse (a :: b :: c :: d :: rest) = .ok h →
    parse (a' :: b' :: c' :: d' :: rest) = .ok { h with sync := a', version := b', src := c', dest := d' }) ∧
  ∀ buf : List Byte, buf.length = 6 → parse buf = .error .lengthMismatch

/-- R148, R145: `CONFIRM` of a well-formed header returns OK when its checksum is disabled or right, and `CRC_MISMATCH` otherwise; an
ill-formed header is refused. -/
def Obligations.ConfirmChecksTheTrailer : Prop :=
  (∀ (h : Header) (s : State), h.wf = true → (h.crcEnabled = false ∨ computeBitwise h.payload = h.crc8) →
    exec (.confirm h) s = .next { s with resp := some ⟨.ok, .none⟩ }) ∧
  (∀ (h : Header) (s : State), h.wf = true → h.crcEnabled = true → computeBitwise h.payload ≠ h.crc8 →
    exec (.confirm h) s = .next { s with resp := some ⟨.crcMismatch, .none⟩ }) ∧
  ∀ (h : Header) (s : State), h.payload.length ≠ h.length.toNat →
    exec (.confirm h) s = .next { s with refused := true, resp := some ⟨.refused, .none⟩ }

/-! ## Manchester encoder (43_manchester.md) -/

/-- R175, R173: `ENCODE` returns a symbol whose pair `i` is the inverted bit and then the bit; the symbol is valid and decodes back. -/
def Obligations.EncodeReturnsTheSymbol : Prop :=
  ∀ (v : Byte) (s : State), ∃ w : Word16,
    exec (.encode v) s = .next { s with resp := some ⟨.ok, .word w⟩ } ∧
    (∀ i < 8, w.getLsbD (2 * i + 1) = !v.getLsbD i ∧ w.getLsbD (2 * i) = v.getLsbD i) ∧
    validSymbol w = true ∧ decodeSymbol w = v

/-- R174, R172, R71: the slots of a byte string in time order, most significant bit first, each bit inverted and then plain, 16 slots a
byte; and the closed form of a symbol. -/
def Obligations.SlotsOfBytes : Prop :=
  (∀ bs : List Byte,
    wireSlots bs = bs.flatMap (fun v => (List.range 8).flatMap fun k => [!v.getLsbD (7 - k), v.getLsbD (7 - k)]) ∧
    (wireSlots bs).length = 16 * bs.length) ∧
  ∀ v : Byte, encodeByte v = 0xAAAA#16 ^^^ (3#16 * spread v)

/-! ## Transmitter (44_transmitter.md) -/

/-- R190, R52: `ENQ` of a payload that fits an idle transmitter queues the symbols of its frame, high byte first, in frame order, and
changes nothing else but the response. -/
def Obligations.EnqQueuesTheEncodedFrame : Prop :=
  ∀ (p : List Byte) (s : State), RingOk s.cfg.nTx s.txRing → s.txActive = false → ringEmpty s.txRing = true →
    p.length ≤ 255 → 2 * (7 + p.length) ≤ s.cfg.nTx - 1 →
    ∃ r : Ring, exec (.enq p) s = .next { s with txRing := r, resp := some ⟨.ok, .none⟩ } ∧ r.get = s.txRing.get ∧
      ringBytes s.cfg.nTx r = (stationFrame s.cfg p).flatMap fun b =>
        [(encodeByte b).extractLsb' 8 8, (encodeByte b).extractLsb' 0 8]

/-- R190, R301: `ENQ` checks the payload's size first, then whether a message is queued or in flight or does not fit; either way only
the response is written. -/
def Obligations.EnqIsTurnedAway : Prop :=
  (∀ (p : List Byte) (s : State), 255 < p.length →
    exec (.enq p) s = .next { s with resp := some ⟨.payloadTooLarge, .none⟩ }) ∧
  ∀ (p : List Byte) (s : State), p.length ≤ 255 →
    (s.txActive = true ∨ ringEmpty s.txRing = false ∨ ringFree s.cfg.nTx s.txRing < 2 * (7 + p.length)) →
    exec (.enq p) s = .next { s with resp := some ⟨.queueFull, .none⟩ }

/-- R194, R197: `START` on an idle line with a message queued begins the transmission, arms the tick and drives the first slot, the
top bit of the oldest ring byte. (The second clause, bits left from before, is met by no reachable state: I4.) -/
def Obligations.StartDrivesTheFirstSlot : Prop :=
  (∀ (s : State) (b : Byte) (rest : List Byte), RingOk s.cfg.nTx s.txRing → s.txActive = false → s.ls = .idle →
    s.txBitsLeft = 0 → ringBytes s.cfg.nTx s.txRing = b :: rest →
    exec .start s = .next { s with
      txActive := true, tickArmed := true, tickCnt := s.cfg.halfBit, txLevel := b.getLsbD 7, txEn := true,
      txShift := b <<< 1, txBitsLeft := 7, txRing := { s.txRing with get := (s.txRing.get + 1) % s.cfg.nTx } }) ∧
  ∀ s : State, s.txActive = false → s.ls = .idle → ringEmpty s.txRing = false → s.txBitsLeft ≠ 0 →
    exec .start s = .next { s with
      txActive := true, tickArmed := true, tickCnt := s.cfg.halfBit, txLevel := s.txShift.getLsbD 7, txEn := true,
      txShift := s.txShift <<< 1, txBitsLeft := s.txBitsLeft - 1 }

/-- R195, R197, R52: a `TICK` with slots to send and no COLLISION drives the next of them, in order, and keeps the rest; besides the
drive registers only `txGet` moves. -/
def Obligations.TickDrivesTheNextSlot : Prop :=
  ∀ (s : State) (l : Bit) (rest : List Bit), RingOk s.cfg.nTx s.txRing → s.tickArmed = true → s.ls ≠ .collision →
    pendingSlots s = l :: rest →
    ∃ (sh : Byte) (n : Fin 9) (g : Nat),
      exec .tick s = .next { s with
        txLevel := l, txEn := true, txShift := sh, txBitsLeft := n, txRing := { s.txRing with get := g } } ∧
      pendingSlots { s with
        txLevel := l, txEn := true, txShift := sh, txBitsLeft := n, txRing := { s.txRing with get := g } } = rest

/-- R195, R196, R198: a `TICK` on COLLISION aborts: the queued bits are discarded, the line is released, the tick stops and
`txAborted` is set; a `TICK` with nothing left to send ends the transmission, and reports nothing. Collision is checked first. -/
def Obligations.TickAbortsOrEnds : Prop :=
  (∀ s : State, s.tickArmed = true → s.ls = .collision →
    exec .tick s = .next { s with
      txRing := { s.txRing with get := s.txRing.put }, txEn := false, txLevel := s.cfg.releasedLevel, txActive := false,
      tickArmed := false, txShift := 0#8, txBitsLeft := 0, txAborted := true }) ∧
  ∀ s : State, s.tickArmed = true → s.ls ≠ .collision → s.txBitsLeft = 0 → ringEmpty s.txRing = true →
    exec .tick s = .next { s with
      txEn := false, txLevel := s.cfg.releasedLevel, txActive := false, tickArmed := false, txShift := 0#8,
      txBitsLeft := 0 }

/-- R199 (its event layer), R174, R190: after `ENQ` and `START` on an idle line, tick `k` leaves slot `k` of the frame on the line, for
every slot, and the tick after the last one releases the line with no abort reported. -/
def Obligations.TransmissionSendsTheFrame : Prop :=
  ∀ (s : State) (p : List Byte), Inv s → s.txActive = false → ringEmpty s.txRing = true → s.ls = .idle → p.length ≤ 255 →
    2 * (7 + p.length) ≤ s.cfg.nTx - 1 →
    (∀ k < 16 * (7 + p.length), ∃ t, execAll (.enq p :: .start :: List.replicate k .tick) s = .next t ∧
      t.txActive = true ∧ t.txEn = true ∧ (wireSlots (stationFrame s.cfg p))[k]? = some t.txLevel) ∧
    ∃ t, execAll (.enq p :: .start :: List.replicate (16 * (7 + p.length)) .tick) s = .next t ∧
      t.txActive = false ∧ t.txEn = false ∧ t.txLevel = s.cfg.releasedLevel ∧ ringEmpty t.txRing = true ∧
      t.txAborted = s.txAborted

/-- R200: after a collision abort the ring is empty, no bit is left and the transmission is over; a message queued when the line is
IDLE again is accepted and starts afresh with its own first slot. -/
def Obligations.ResubmissionStartsAfresh : Prop :=
  ∀ s : State, Inv s → s.txActive = true → s.ls = .collision →
    ∃ t, exec .tick s = .next t ∧ ringEmpty t.txRing = true ∧ t.txBitsLeft = 0 ∧ t.txActive = false ∧ t.txAborted = true ∧
      ∀ (u : State) (p : List Byte), Inv u → u.cfg = t.cfg → u.txRing = t.txRing → u.txActive = t.txActive → u.ls = .idle →
        p.length ≤ 255 → 2 * (7 + p.length) ≤ u.cfg.nTx - 1 →
        ∃ v, execAll [.enq p, .start] u = .next v ∧ v.txActive = true ∧ v.txBitsLeft = 7 ∧
          pendingSlots v = (wireSlots (stationFrame u.cfg p)).tail ∧
          (wireSlots (stationFrame u.cfg p)).head? = some v.txLevel

/-! ## Host port (47_host_port.md, 60_exceptions.md) -/

/-- R280, R83, R13, R40: `STATUS` returns the status word, bit by bit, and writes nothing else. -/
def Obligations.StatusReadsTheFlags : Prop :=
  ∀ s : State, ∃ w : Byte, exec .status s = .next { s with resp := some ⟨.ok, .byte w⟩ } ∧
    w.extractLsb' 0 2 = (match s.ls with | .idle => 0b00#2 | .busy => 0b01#2 | .collision => 0b10#2) ∧
    w.getLsbD 2 = s.txActive ∧ w.getLsbD 3 = decide (s.txRing.put ≠ s.txRing.get) ∧ w.getLsbD 4 = s.txAborted ∧
    w.getLsbD 5 = decide (s.rxRing.put ≠ s.rxRing.get) ∧ w.getLsbD 6 = s.rxOverflow ∧ w.getLsbD 7 = s.lastLevel

/-- R281, R83, R303, R304: `CLRF` with a legal mask clears the flags it names and nothing else, any other mask is refused, and no other
instruction ever clears a sticky flag. -/
def Obligations.OnlyClrfClearsStickyFlags : Prop :=
  (∀ (m : Byte) (s : State), m &&& 0xAF#8 = 0#8 →
    exec (.clrf m) s = .next { s with
      txAborted := s.txAborted && !m.getLsbD 4, rxOverflow := s.rxOverflow && !m.getLsbD 6,
      resp := some ⟨.ok, .none⟩ }) ∧
  (∀ (m : Byte) (s : State), m &&& 0xAF#8 ≠ 0#8 →
    exec (.clrf m) s = .next { s with refused := true, resp := some ⟨.refused, .none⟩ }) ∧
  ∀ (i : Instr) (s t : State), (∀ m, i ≠ .clrf m) → exec i s = .next t →
    (s.txAborted = true → t.txAborted = true) ∧ (s.rxOverflow = true → t.rxOverflow = true)

/-- R64: `STATUS`, `CRC8`, `ENCODE`, `FRAME`, `PARSE` and `CONFIRM` complete in every state, have no state effect but their response,
and are idempotent. -/
def Obligations.PureCommandsAreIdempotent : Prop :=
  ∀ (i : Instr) (s : State), i.wf = true →
    (i = .status ∨ (∃ bs, i = .crc8 bs) ∨ (∃ v, i = .encode v) ∨ (∃ a b ce p, i = .frame a b ce p) ∨
      (∃ buf, i = .parse buf) ∨ ∃ h, i = .confirm h) →
    ∃ r : Response, exec i s = .next { s with resp := some r } ∧
      exec i { s with resp := some r } = .next { s with resp := some r }

/-- R283 (the frame of the host commands): a host command writes at most the transmit ring's contents and `txPut` (only `ENQ`),
`rxGet` (only `RXGET`), the two sticky flags (only `CLRF`), the response and the model-only mark. -/
def Obligations.HostCommandsWriteOnlyTheirOwn : Prop :=
  ∀ (i : Instr) (s t : State), i.isEvent = false → exec i s = .next t →
    t = { s with
      txRing := { s.txRing with buf := t.txRing.buf, put := t.txRing.put }, rxRing := { s.rxRing with get := t.rxRing.get },
      txAborted := t.txAborted, rxOverflow := t.rxOverflow, resp := t.resp, refused := t.refused } ∧
    ((∀ p, i ≠ .enq p) → t.txRing = s.txRing) ∧ (i ≠ .rxget → t.rxRing = s.rxRing) ∧
    ((∀ m, i ≠ .clrf m) → t.txAborted = s.txAborted ∧ t.rxOverflow = s.rxOverflow) ∧
    (i.wf = true → t.refused = s.refused)

/-- R59: who moves which cursor of which ring, over all instructions. -/
def Obligations.RingOwnership : Prop :=
  ∀ (i : Instr) (s t : State), exec i s = .next t →
    ((t.rxRing.put ≠ s.rxRing.put ∨ t.rxRing.buf ≠ s.rxRing.buf) → ∃ l, i = .edge l ∧ s.expData = true) ∧
    (t.rxRing.get ≠ s.rxRing.get → i = .rxget) ∧
    ((t.txRing.put ≠ s.txRing.put ∨ t.txRing.buf ≠ s.txRing.buf) → ∃ p, i = .enq p) ∧
    (t.txRing.get ≠ s.txRing.get → i = .start ∨ i = .tick)

/-- R12, R300, R77: every host command ends with a response, one that ends with a code other than OK carries no data and leaves the
state unchanged (but for the model-only mark, which REFUSED sets), and an event returns none. -/
def Obligations.ErrorCodesLeaveTheStateUnchanged : Prop :=
  (∀ (i : Instr) (s t : State), i.isEvent = true → exec i s = .next t → t.resp = s.resp) ∧
  ∀ (i : Instr) (s t : State), i.isEvent = false → exec i s = .next t →
    ∃ r : Response, t.resp = some r ∧
      (r.code ≠ .ok →
        t = { s with resp := some ⟨r.code, .none⟩, refused := s.refused || decide (r.code = .refused) })

/-! ## Frames -/

/-- The frame of `EDGE`: it writes the monitor, the receiver and the two timers it arms; `rxGet`, the transmitter and the rest stay;
of the receive ring's slots only the one at `rxPut` can change, and only when a byte is completed and the ring has room. -/
def Obligations.FrameOfEdge : Prop :=
  ∀ (l : Bit) (s t : State), exec (.edge l) s = .next t →
    t = { s with
      ls := t.ls, lastLevel := t.lastLevel, idleArmed := t.idleArmed, idleCnt := t.idleCnt, expData := t.expData,
      rxCursor := t.rxCursor, rxByte := t.rxByte, hbArmed := t.hbArmed, hbCnt := t.hbCnt, rxOverflow := t.rxOverflow,
      rxRing := { s.rxRing with buf := t.rxRing.buf, put := t.rxRing.put } } ∧
    (t.rxOverflow ≠ s.rxOverflow → ringFull s.cfg.nRx s.rxRing = true) ∧
    ∀ a, ((s.expData = true ∧ s.rxCursor = 7 ∧ ringFull s.cfg.nRx s.rxRing = false) → a ≠ s.rxRing.put) →
      Memory.read t.rxRing.buf a = Memory.read s.rxRing.buf a

/-- The frame of `ENQ`: it writes the response and, when accepted, `txPut` and the `2*n` slots from `txPut` on; every other slot and
everything else stays. -/
def Obligations.FrameOfEnq : Prop :=
  ∀ (p : List Byte) (s t : State), exec (.enq p) s = .next t →
    t = { s with txRing := { s.txRing with buf := t.txRing.buf, put := t.txRing.put }, resp := t.resp } ∧
    ∀ a, (t.resp = some ⟨.ok, .none⟩ → ∀ k < 2 * (7 + p.length), a ≠ (s.txRing.put + k) % s.cfg.nTx) →
      Memory.read t.txRing.buf a = Memory.read s.txRing.buf a

/-- The frame of the events that store nothing: `IDLE_TO` keeps to the monitor and the receiver's registers, `HB_TO` to the phase and
its timer, `TICK` and `START` to the transmitter, where only `TICK` on COLLISION sets `txAborted`. -/
def Obligations.FrameOfTimerEvents : Prop :=
  (∀ s t : State, exec .idleTo s = .next t →
    t = { s with
      ls := t.ls, idleArmed := t.idleArmed, rxCursor := t.rxCursor, rxByte := t.rxByte, expData := t.expData,
      hbArmed := t.hbArmed }) ∧
  (∀ s t : State, exec .hbTo s = .next t → t = { s with expData := t.expData, hbArmed := t.hbArmed }) ∧
  (∀ s t : State, exec .tick s = .next t →
    t = { s with
      txActive := t.txActive, txShift := t.txShift, txBitsLeft := t.txBitsLeft, tickArmed := t.tickArmed,
      txAborted := t.txAborted, txEn := t.txEn, txLevel := t.txLevel, txRing := { s.txRing with get := t.txRing.get } } ∧
    (t.txAborted ≠ s.txAborted → s.ls = .collision)) ∧
  ∀ s t : State, exec .start s = .next t →
    t = { s with
      txActive := t.txActive, txShift := t.txShift, txBitsLeft := t.txBitsLeft, tickArmed := t.tickArmed,
      tickCnt := t.tickCnt, txEn := t.txEn, txLevel := t.txLevel, txRing := { s.txRing with get := t.txRing.get } }

/-- R50, R59: every instruction but `EDGE` and `ENQ` leaves every slot of both rings as it was. -/
def Obligations.OnlyEdgeAndEnqStore : Prop :=
  ∀ (i : Instr) (s t : State), (∀ l, i ≠ .edge l) → (∀ p, i ≠ .enq p) → exec i s = .next t →
    ∀ a, Memory.read t.rxRing.buf a = Memory.read s.rxRing.buf a ∧ Memory.read t.txRing.buf a = Memory.read s.txRing.buf a

/-! ## Cycle layer (46_cycle_layer.md) -/

/-- R251, R253(a): in a cycle whose line level differs from the last one, `EDGE` runs and cancels both timeouts, so neither `IDLE_TO`
nor `HB_TO` runs even where its timer falls due: the monitor is BUSY with a full new period, and the receiver is as the edge left it. -/
def Obligations.EdgeWinsItsTie : Prop :=
  ∀ (c : CycleInput) (s : State), Inv s → c.rst = false → lineIn c.line s ≠ s.prevLevel →
    ∃ t, cycle c s = .next t ∧ t.prevLevel = lineIn c.line s ∧ t.lastLevel = lineIn c.line s ∧ t.ls = .busy ∧
      t.idleArmed = true ∧ t.idleCnt = s.cfg.tIdle ∧
      (s.expData = true → t.expData = false ∧ t.hbArmed = true ∧ t.hbCnt = s.cfg.tHb) ∧
      (s.expData = false → t.expData = true ∧ t.hbArmed = false)

/-- R252, R257, R101: while the line makes no edge, an armed idle timer counts one per cycle and the line stays BUSY; in the cycle its
count runs out, `IDLE_TO` gives IDLE or COLLISION by the last level. Whatever the host commands do. -/
def Obligations.IdleTimeoutRunsItsFullPeriod : Prop :=
  ∀ (cs : List CycleInput) (s : State), Inv s → s.idleArmed = true →
    (∀ c ∈ cs, c.rst = false ∧ c.line = .driven s.prevLevel) →
    (cs.length < s.idleCnt →
      ∃ t, cycles cs s = .next t ∧ t.ls = .busy ∧ t.idleArmed = true ∧ t.idleCnt = s.idleCnt - cs.length) ∧
    (cs.length = s.idleCnt →
      ∃ t, cycles cs s = .next t ∧ t.idleArmed = false ∧
        t.ls = if s.lastLevel = s.cfg.releasedLevel then .idle else .collision)

/-- R254: every cycle is a run of the event layer: some of `EDGE`, `IDLE_TO`, `HB_TO`, `TICK` in this order, then the host command, then
possibly `START`, each admitted when it runs; the counters and `prevLevel`, which the event layer does not have, apart. In the cycle
whose `TICK` ends a transmission this follows the model's reading: an `ENQ` there runs after the `TICK` and is accepted, by R253(e) and
R66 and against a bullet of R306 (log entry 18, DEDUCED). -/
def Obligations.CycleIsARunOfEvents : Prop :=
  ∀ (c : CycleInput) (s t : State), c.rst = false → cycle c s = .next t →
    ∃ (before after : List Instr) (u v w : State),
      List.Sublist before [.edge (lineIn c.line s), .idleTo, .hbTo, .tick] ∧ List.Sublist after [.start] ∧
      execAll before { s with resp := none } = .next u ∧ hostPhase c.cmd u = .next v ∧ execAll after v = .next w ∧
      eventView w = eventView t

/-- R199: in the cycle layer, after a cycle whose `ENQ` starts an `n`-byte frame, slot `j / H` is on the line `j` cycles later, up to
the release at cycle `16*n*H`, as long as no COLLISION occurs, whatever the line does. -/
def Obligations.FrameTiming : Prop :=
  ∀ (s : State) (p : List Byte) (line : LineSource) (cs : List CycleInput),
    Inv s → s.txActive = false → ringEmpty s.txRing = true → s.ls = .idle → p.length ≤ 255 →
    2 * (7 + p.length) ≤ s.cfg.nTx - 1 → lineIn line s = s.prevLevel → (∀ c ∈ cs, c.rst = false ∧ c.cmd = none) →
    noCollision (⟨false, line, some ⟨0x0010#16, .bytes p⟩⟩ :: cs) s = true →
    ∃ t, cycles (⟨false, line, some ⟨0x0010#16, .bytes p⟩⟩ :: cs) s = .next t ∧
      (cs.length < 16 * (7 + p.length) * s.cfg.halfBit →
        t.txActive = true ∧ t.txEn = true ∧
          (wireSlots (stationFrame s.cfg p))[cs.length / s.cfg.halfBit]? = some t.txLevel) ∧
      (cs.length = 16 * (7 + p.length) * s.cfg.halfBit →
        t.txActive = false ∧ t.txEn = false ∧ t.txLevel = s.cfg.releasedLevel ∧ t.txAborted = s.txAborted)

/-- R229, R232, R359: a station on its own line receives the frame it sends: for every payload that fits and all legal parameters,
`16*n*H + T_IDLE + 1` cycles after the cycle of the `ENQ` the receive ring holds exactly the frame's bytes after what it held, the
line is IDLE again and the transmitter is free. -/
def Obligations.LoopbackDeliversTheFrame : Prop :=
  ∀ (s : State) (p : List Byte), Inv s → s.cfg.releasedLevel = true → s.prevLevel = true → s.txActive = false →
    ringEmpty s.txRing = true → s.ls = .idle → s.expData = true → s.rxCursor = 0 → p.length ≤ 255 →
    2 * (7 + p.length) ≤ s.cfg.nTx - 1 → 7 + p.length ≤ ringFree s.cfg.nRx s.rxRing →
    ∃ t, cycles (⟨false, .loopback, some ⟨0x0010#16, .bytes p⟩⟩ ::
        List.replicate (16 * (7 + p.length) * s.cfg.halfBit + s.cfg.tIdle + 1) quietCycle) s = .next t ∧
      ringBytes s.cfg.nRx t.rxRing = ringBytes s.cfg.nRx s.rxRing ++ stationFrame s.cfg p ∧
      t.ls = .idle ∧ t.txActive = false ∧ t.rxOverflow = s.rxOverflow ∧ t.txAborted = s.txAborted

/-- R255: the level of the line in its three wirings, and that a network of stations sees the wired-AND of all of them. -/
def Obligations.LineResolution : Prop :=
  (∀ (s : State), s.txEn = true → lineIn .loopback s = s.txLevel) ∧
  (∀ (s : State), s.txEn = false → lineIn .loopback s = s.cfg.releasedLevel) ∧
  (∀ (l : Bit) (s : State), lineIn (.driven l) s = l) ∧
  (∀ (others : List (Bit × Bit)) (s : State),
    lineIn (.shared others) s = false ↔
      (s.txEn = true ∧ s.txLevel = false) ∨ ∃ o ∈ others, o.1 = true ∧ o.2 = false) ∧
  ∀ (s : State) (rest : List State),
    networkLine (s :: rest) = lineIn (.shared (rest.map fun o => (o.txEn, o.txLevel))) s

/-- R313, R255: when the environment has presented everything, the clock goes on as a cycle of an isolated station with no command
and no reset (the model's choice, log entry 4). -/
def Obligations.ClockGoesOnWithoutInputs : Prop :=
  ∀ s : State, s.inputs = [] → step s = step { s with inputs := [.cycle ⟨false, .loopback, none⟩] }
end

