-- ==== Sys2Proof/Laws/Decode.lean ====
section
/-! SUPPORT. The two fields of a command word (spec/30_encoding.md R74): taking a word apart and putting it together. -/

namespace Sys2Proof

/-- `OP` of a word put together from `IMM8` and `OP`. -/
theorem opOf_append (imm op : Byte) : opOf (imm ++ op) = op := by
  apply BitVec.eq_of_getLsbD_eq
  intro i hi
  rw [opOf, BitVec.getLsbD_extractLsb', BitVec.getLsbD_append]
  simp [hi]

/-- `IMM8` of a word put together from `IMM8` and `OP`. -/
theorem immOf_append (imm op : Byte) : immOf (imm ++ op) = imm := by
  apply BitVec.eq_of_getLsbD_eq
  intro i hi
  rw [immOf, BitVec.getLsbD_extractLsb', BitVec.getLsbD_append]
  simp [hi]

/-- A word is its two fields. -/
theorem immOf_append_opOf (w : Word16) : (immOf w ++ opOf w : BitVec (8 + 8)) = w := by
  apply BitVec.eq_of_getLsbD_eq
  intro i hi
  rw [BitVec.getLsbD_append, immOf, opOf, BitVec.getLsbD_extractLsb', BitVec.getLsbD_extractLsb']
  by_cases h : i < 8
  · simp [h]
  · simp [h, show 8 + (i - 8) = i by omega, show i - 8 < 8 by omega]

@[simp] theorem opOf_encode (i : Instr) : opOf (encode i).word = opcode i := opOf_append _ _

@[simp] theorem immOf_encode (i : Instr) : immOf (encode i).word = immediate i := immOf_append _ _

@[simp] theorem operand_encode (i : Instr) : (encode i).operand = operandOf i := rfl

/-- Words with the same two fields are the same. -/
theorem word_ext {w w' : Word16} (ho : opOf w = opOf w') (hi : immOf w = immOf w') : w = w' := by
  have h := immOf_append_opOf w
  rw [ho, hi, immOf_append_opOf] at h
  exact h.symm

end Sys2Proof
end

