-- ==== Sys2Proof/Laws/Memory.lean ====
section
/-! SUPPORT. Slots: a read after a write, the canonical form, and which slots are listed. -/

namespace Sys2Proof.Machine

@[simp] theorem read_nil (a : Nat) : Memory.read [] a = none := rfl

theorem read_cons (a' : Nat) (b : Byte) (m : Memory) (a : Nat) :
    Memory.read ((a', b) :: m) a = if a' = a then some b else Memory.read m a := rfl

/-- In canonical form, a slot below the first listed one is unwritten. -/
theorem read_eq_none_of_lt (m : Memory) (a : Nat) (h : ∀ c ∈ m, a < c.1) : Memory.read m a = none := by
  induction m with
  | nil => rfl
  | cons c m ih =>
    obtain ⟨a', b⟩ := c
    have h1 : a < a' := h (a', b) (by simp)
    rw [read_cons, if_neg (by omega)]
    exact ih fun c hc => h c (by simp [hc])

/-- A write lists the slot written and no other new one. -/
theorem mem_write {m : Memory} {a : Nat} {b : Byte} {c : Host.Cell} (h : c ∈ Memory.write m a b) :
    c = (a, b) ∨ c ∈ m := by
  induction m with
  | nil => simpa [Memory.write] using h
  | cons d m ih =>
    obtain ⟨a', b'⟩ := d
    simp only [Memory.write] at h
    split at h
    · simpa using h
    · split at h
      · rcases List.mem_cons.1 h with h | h
        · exact .inl h
        · exact .inr (by simp [h])
      · rcases List.mem_cons.1 h with h | h
        · exact .inr (by simp [h])
        · rcases ih h with h | h
          · exact .inl h
          · exact .inr (by simp [h])

/-- The read of a slot after a write: the byte written there, and every other slot as before. -/
theorem read_write (m : Memory) (a : Nat) (b : Byte) (x : Nat) :
    Memory.read (Memory.write m a b) x = if x = a then some b else Memory.read m x := by
  induction m with
  | nil => simp [Memory.write, read_cons, eq_comm]
  | cons d m ih =>
    obtain ⟨a', b'⟩ := d
    simp only [Memory.write]
    split
    · rw [read_cons]; simp only [eq_comm]
    · split
      · subst a'
        rw [read_cons, read_cons]
        by_cases h : x = a
        · simp [h]
        · simp [h, Ne.symm h]
      · rw [read_cons, read_cons, ih]
        by_cases h : a' = x
        · have : x ≠ a := by omega
          simp [h, this]
        · simp [h]

theorem read_write_same (m : Memory) (a : Nat) (b : Byte) : Memory.read (Memory.write m a b) a = some b := by
  simp [read_write]

theorem read_write_ne (m : Memory) {a x : Nat} (b : Byte) (h : x ≠ a) :
    Memory.read (Memory.write m a b) x = Memory.read m x := by
  simp [read_write, h]

theorem wf_nil : Memory.wf [] := List.Pairwise.nil

/-- A write keeps the canonical form. -/
theorem wf_write {m : Memory} (h : Memory.wf m) (a : Nat) (b : Byte) : Memory.wf (Memory.write m a b) := by
  induction m with
  | nil => simp [Memory.write, Memory.wf]
  | cons d m ih =>
    obtain ⟨a', b'⟩ := d
    rw [Memory.wf, List.pairwise_cons] at h
    simp only [Memory.write]
    split
    · rename_i hlt
      rw [Memory.wf, List.pairwise_cons]
      refine ⟨?_, List.pairwise_cons.2 h⟩
      intro c hc
      rcases List.mem_cons.1 hc with rfl | hc
      · exact hlt
      · exact Nat.lt_trans hlt (h.1 c hc)
    · split
      · subst a'
        exact List.pairwise_cons.2 h
      · rename_i h1 h2
        rw [Memory.wf, List.pairwise_cons]
        refine ⟨?_, ih h.2⟩
        intro c hc
        rcases mem_write hc with rfl | hc
        · show a' < a
          omega
        · exact h.1 c hc

/-- A write at a slot below `n` keeps every listed slot below `n`. -/
theorem slots_lt_write {m : Memory} {n a : Nat} (h : ∀ c ∈ m, c.1 < n) (ha : a < n) (b : Byte) :
    ∀ c ∈ Memory.write m a b, c.1 < n := by
  intro c hc
  rcases mem_write hc with rfl | hc
  · exact ha
  · exact h c hc

/-- In canonical form a written slot is listed, so two canonical memories that read alike are the same data. -/
theorem eq_of_read_eq {m m' : Memory} (h : Memory.wf m) (h' : Memory.wf m')
    (hr : ∀ a, Memory.read m a = Memory.read m' a) : m = m' := by
  induction m generalizing m' with
  | nil =>
    cases m' with
    | nil => rfl
    | cons d m' =>
      obtain ⟨a, b⟩ := d
      have := hr a
      simp [read_cons] at this
  | cons c m ih =>
    obtain ⟨a, b⟩ := c
    rw [Memory.wf, List.pairwise_cons] at h
    cases m' with
    | nil =>
      have := hr a
      simp [read_cons] at this
    | cons d m' =>
      obtain ⟨a', b'⟩ := d
      rw [Memory.wf, List.pairwise_cons] at h'
      have hm : Memory.read m a = none := read_eq_none_of_lt m a h.1
      have hm' : Memory.read m' a' = none := read_eq_none_of_lt m' a' h'.1
      have haa : a = a' := by
        rcases Nat.lt_trichotomy a a' with hlt | heq | hlt
        · have h1 := hr a
          rw [read_cons, if_pos rfl, read_cons, if_neg (by omega),
            read_eq_none_of_lt m' a fun c hc => Nat.lt_trans hlt (h'.1 c hc)] at h1
          cases h1
        · exact heq
        · have h1 := hr a'
          rw [read_cons, if_neg (by omega), read_cons, if_pos rfl,
            read_eq_none_of_lt m a' fun c hc => Nat.lt_trans hlt (h.1 c hc)] at h1
          cases h1
      subst haa
      have hb := hr a
      rw [read_cons, if_pos rfl, read_cons, if_pos rfl] at hb
      injection hb with hb
      subst hb
      congr 1
      refine ih h.2 h'.2 fun x => ?_
      by_cases hx : a = x
      · subst hx
        rw [hm, hm']
      · have h1 := hr x
        rwa [read_cons, if_neg hx, read_cons, if_neg hx] at h1

end Sys2Proof.Machine
end

