-- ==== Sys2Proof/Laws/Ring.lean ====
section
/-! SUPPORT. Rings as queues (spec/20_memory.md R55 to R58): each primitive's whole effect on a ring whose cursors are in range. -/

namespace Sys2Proof.Machine

/-- The slot `k` places after cursor `a`. -/
theorem slot_eq {n a k : Nat} (ha : a < n) (hk : k < n) : (a + k) % n = if a + k < n then a + k else a + k - n := by
  split
  · exact Nat.mod_eq_of_lt ‹_›
  · rw [Nat.mod_eq_sub_mod (by omega), Nat.mod_eq_of_lt (by omega)]

theorem slot_lt {n a k : Nat} (ha : a < n) : (a + k) % n < n := Nat.mod_lt _ (by omega)

/-- A cursor's advance. -/
theorem succ_eq {n a : Nat} (ha : a < n) : (a + 1) % n = if a + 1 = n then 0 else a + 1 := by
  split
  · rename_i h; rw [h, Nat.mod_self]
  · exact Nat.mod_eq_of_lt (by omega)

/-- `RingCount` without the remainder, for cursors in range. -/
theorem ringCount_eq {n : Nat} {r : Ring} (hp : r.put < n) (hg : r.get < n) :
    ringCount n r = if r.get ≤ r.put then r.put - r.get else r.put + n - r.get := by
  unfold ringCount
  split
  · have : r.put + n - r.get = (r.put - r.get) + n := by omega
    rw [this, Nat.add_mod_right, Nat.mod_eq_of_lt (by omega)]
  · exact Nat.mod_eq_of_lt (by omega)

theorem ringEmpty_iff (r : Ring) : ringEmpty r = true ↔ r.put = r.get := by simp [ringEmpty]

/-- A ring is empty exactly when its count is 0. -/
theorem ringCount_eq_zero {n : Nat} {r : Ring} (hp : r.put < n) (hg : r.get < n) :
    ringCount n r = 0 ↔ ringEmpty r = true := by
  rw [ringCount_eq hp hg, ringEmpty_iff]
  split <;> omega

/-- I6: a ring holds at most `N - 1` bytes. -/
theorem ringCount_lt {n : Nat} {r : Ring} (hp : r.put < n) (hg : r.get < n) : ringCount n r < n := by
  rw [ringCount_eq hp hg]
  split <;> omega

/-- A ring is full exactly when no byte is free. -/
theorem ringFull_iff {n : Nat} {r : Ring} (hp : r.put < n) (hg : r.get < n) :
    ringFull n r = true ↔ ringFree n r = 0 := by
  unfold ringFull ringFree
  rw [beq_iff_eq, succ_eq hp, ringCount_eq hp hg]
  split <;> split <;> omega

/-- The ring after reset, and a cleared ring, satisfy the ring invariant. -/
theorem ringOk_reset {n : Nat} (h : 2 ≤ n) : RingOk n Ring.reset := by
  refine ⟨by show 0 < n; omega, by show 0 < n; omega, wf_nil, by simp [Ring.reset], ?_⟩
  intro k hk
  have : ringCount n Ring.reset = 0 := by simp [ringCount, Ring.reset]
  omega

theorem ringOk_clear {n : Nat} {r : Ring} (h : RingOk n r) : RingOk n (ringClear r) := by
  obtain ⟨hp, hg, hw, hb, _⟩ := h
  refine ⟨hp, hp, hw, hb, ?_⟩
  intro k hk
  have : ringCount n (ringClear r) = 0 := (ringCount_eq_zero (r := ringClear r) hp hp).2 (by simp [ringEmpty, ringClear])
  omega

@[simp] theorem ringEmpty_clear (r : Ring) : ringEmpty (ringClear r) = true := by simp [ringEmpty, ringClear]

@[simp] theorem ringClear_buf (r : Ring) : (ringClear r).buf = r.buf := rfl

/-- An empty ring holds no byte. -/
theorem ringBytes_of_empty {n : Nat} {r : Ring} (hp : r.put < n) (hg : r.get < n) (h : ringEmpty r = true) :
    ringBytes n r = [] := by
  unfold ringBytes
  rw [(ringCount_eq_zero hp hg).2 h]
  rfl

/-- Where every slot in use is written, the ring's bytes are its count in number. -/
theorem ringBytes_length {n : Nat} {r : Ring} (h : RingOk n r) : (ringBytes n r).length = ringCount n r := by
  obtain ⟨_, _, _, _, hs⟩ := h
  unfold ringBytes
  rw [List.length_filterMap_eq_countP, List.countP_eq_length.2, List.length_range]
  intro k hk
  exact hs k (List.mem_range.1 hk)

/-- `RingPut` into a ring with room: the byte is queued last, and no slot but the one at `put` changes. -/
theorem ringPut_spec {n : Nat} {r : Ring} (h : RingOk n r) (hf : ringFull n r = false) (b : Byte) :
    ∃ r', ringPut n r b = .stored r' ∧ RingOk n r' ∧ r'.get = r.get ∧ r'.put = (r.put + 1) % n ∧
      r'.buf = Memory.write r.buf r.put b ∧ ringCount n r' = ringCount n r + 1 ∧
      ringBytes n r' = ringBytes n r ++ [b] := by
  obtain ⟨hp, hg, hw, hb, hs⟩ := h
  refine ⟨{ r with buf := Memory.write r.buf r.put b, put := (r.put + 1) % n }, ?_⟩
  have hp' : (r.put + 1) % n < n := slot_lt hp
  have hne : (r.put + 1) % n ≠ r.get := by simpa [ringFull] using hf
  have hc : ringCount n { r with buf := Memory.write r.buf r.put b, put := (r.put + 1) % n } = ringCount n r + 1 := by
    rw [ringCount_eq (r := { r with buf := Memory.write r.buf r.put b, put := (r.put + 1) % n }) hp' hg, ringCount_eq hp hg]
    show (if r.get ≤ (r.put + 1) % n then (r.put + 1) % n - r.get else (r.put + 1) % n + n - r.get) = _
    have hq := succ_eq hp
    generalize (r.put + 1) % n = q at hp' hne hq ⊢
    split_ifs at hq ⊢ <;> omega
  have hcn := ringCount_lt (r := { r with buf := Memory.write r.buf r.put b, put := (r.put + 1) % n }) hp' hg
  rw [hc] at hcn
  -- the new byte's slot, and the slots of the older bytes
  have hlast : (r.get + ringCount n r) % n = r.put := by
    rw [slot_eq hg (by omega), ringCount_eq hp hg]
    split <;> split <;> omega
  have hold : ∀ k < ringCount n r, (r.get + k) % n ≠ r.put := by
    intro k hk
    rw [ringCount_eq hp hg] at hk
    rw [slot_eq hg (by split at hk <;> omega)]
    split <;> split at hk <;> omega
  refine ⟨?_, ⟨hp', hg, wf_write hw _ _, slots_lt_write hb hp b, ?_⟩, rfl, rfl, rfl, hc, ?_⟩
  · simp [ringPut, hf, hp]
  · intro k hk
    rw [hc] at hk
    rw [read_write]
    split
    · rfl
    · rename_i hk2
      refine hs k ?_
      rcases Nat.lt_or_ge k (ringCount n r) with h1 | h1
      · exact h1
      · exact absurd (by rw [show k = ringCount n r by omega]; exact hlast) hk2
  · unfold ringBytes
    rw [hc, List.range_succ, List.filterMap_append]
    congr 1
    · refine List.filterMap_congr fun k hk => ?_
      exact read_write_ne _ _ (hold k (List.mem_range.1 hk))
    · simp [hlast, read_write_same]

/-- `RingPut` into a full ring. -/
theorem ringPut_full {n : Nat} {r : Ring} (hf : ringFull n r = true) (b : Byte) : ringPut n r b = .full := by
  simp [ringPut, hf]

/-- `RingGet` from a ring that is not empty: the oldest byte leaves. -/
theorem ringGet_spec {n : Nat} {r : Ring} (h : RingOk n r) (he : ringEmpty r = false) :
    ∃ b, ringGet n r = .got b { r with get := (r.get + 1) % n } ∧ RingOk n { r with get := (r.get + 1) % n } ∧
      Memory.read r.buf r.get = some b ∧
      ringBytes n r = b :: ringBytes n { r with get := (r.get + 1) % n } := by
  obtain ⟨hp, hg, hw, hb, hs⟩ := h
  have hg' : (r.get + 1) % n < n := slot_lt hg
  have hne : r.put ≠ r.get := by simpa [ringEmpty] using he
  have hc : ringCount n r = ringCount n { r with get := (r.get + 1) % n } + 1 := by
    rw [ringCount_eq (r := { r with get := (r.get + 1) % n }) hp hg', ringCount_eq hp hg]
    show _ = (if (r.get + 1) % n ≤ r.put then r.put - (r.get + 1) % n else r.put + n - (r.get + 1) % n) + 1
    have hq := succ_eq hg
    generalize (r.get + 1) % n = q at hg' hq ⊢
    split_ifs at hq ⊢ <;> omega
  have hcn := ringCount_lt hp hg
  have h0 := hs 0 (by omega)
  rw [Nat.add_zero, Nat.mod_eq_of_lt hg] at h0
  obtain ⟨b, hb0⟩ := Option.isSome_iff_exists.1 h0
  have hshift : ∀ k < ringCount n { r with get := (r.get + 1) % n }, ((r.get + 1) % n + k) % n = (r.get + (k + 1)) % n := by
    intro k _
    rw [Nat.mod_add_mod]
    congr 1
    omega
  refine ⟨b, ?_, ⟨hp, hg', hw, hb, ?_⟩, hb0, ?_⟩
  · simp [ringGet, hg, hb0]
  · intro k hk
    show (Memory.read r.buf (((r.get + 1) % n + k) % n)).isSome = true
    rw [hshift k hk]
    exact hs (k + 1) (by omega)
  · unfold ringBytes
    rw [hc, List.range_succ_eq_map, List.filterMap_cons, Nat.add_zero, Nat.mod_eq_of_lt hg, hb0]
    simp only [List.filterMap_map]
    congr 1
    refine List.filterMap_congr fun k hk => ?_
    show Memory.read r.buf ((r.get + (k + 1)) % n) = Memory.read r.buf (((r.get + 1) % n + k) % n)
    rw [hshift k (List.mem_range.1 hk)]

/-- The loop of `ENQ` over a ring with room for every byte. -/
theorem ringPutAll_spec {n : Nat} (bs : List Byte) {r : Ring} (h : RingOk n r) (hfree : bs.length ≤ ringFree n r) :
    ∃ r', ringPutAll n r bs = .stored r' ∧ RingOk n r' ∧ r'.get = r.get ∧ ringCount n r' = ringCount n r + bs.length ∧
      ringBytes n r' = ringBytes n r ++ bs ∧
      ∀ a, (∀ k < bs.length, a ≠ (r.put + k) % n) → Memory.read r'.buf a = Memory.read r.buf a := by
  induction bs generalizing r with
  | nil => exact ⟨r, rfl, h, rfl, rfl, by simp, fun _ _ => rfl⟩
  | cons b bs ih =>
    have hp := h.1
    have hg := h.2.1
    have hf : ringFull n r = false := by
      rcases hff : ringFull n r with _ | _
      · rfl
      · have := (ringFull_iff hp hg).1 hff
        rw [this] at hfree
        simp at hfree
    obtain ⟨r1, h1, ok1, g1, p1, b1, c1, q1⟩ := ringPut_spec h hf b
    have hfree1 : bs.length ≤ ringFree n r1 := by
      have : ringFree n r1 = ringFree n r - 1 := by
        unfold ringFree
        rw [c1]
        omega
      rw [this]
      simp at hfree
      omega
    obtain ⟨r2, h2, ok2, g2, c2, q2, m2⟩ := ih ok1 hfree1
    refine ⟨r2, ?_, ok2, by rw [g2, g1], ?_, ?_, ?_⟩
    · simp [ringPutAll, h1, h2]
    · rw [c2, c1, List.length_cons]; omega
    · rw [q2, q1, List.append_assoc]; rfl
    · intro a ha
      have ha0 : a ≠ r.put := by
        have := ha 0 (by simp)
        rwa [Nat.add_zero, Nat.mod_eq_of_lt hp] at this
      rw [m2 a, b1, read_write_ne _ _ ha0]
      intro k hk
      have := ha (k + 1) (by simp; omega)
      rw [p1, Nat.mod_add_mod]
      rwa [show r.put + 1 + k = r.put + (k + 1) by omega]

/-- A put that stores, in any ring: which slot and cursor move. -/
theorem ringPut_stored {n : Nat} {r r' : Ring} {b : Byte} (h : ringPut n r b = .stored r') :
    ringFull n r = false ∧ r.put < n ∧ r' = { r with buf := Memory.write r.buf r.put b, put := (r.put + 1) % n } := by
  unfold ringPut at h
  split at h
  · cases h
  · split at h
    · rename_i hf hp
      injection h with h
      exact ⟨by simpa using hf, hp, h.symm⟩
    · cases h

/-- A get that answers, in any ring: the byte was in the slot at `get`, and only `get` moves. -/
theorem ringGet_got {n : Nat} {r r' : Ring} {b : Byte} (h : ringGet n r = .got b r') :
    r.get < n ∧ Memory.read r.buf r.get = some b ∧ r' = { r with get := (r.get + 1) % n } := by
  unfold ringGet at h
  split at h
  · split at h
    · rename_i hg _ _ hb
      injection h with h1 h2
      subst h1
      exact ⟨hg, hb, h2.symm⟩
    · cases h
  · cases h

/-- The loop of `ENQ`, in any ring: `get` stays. -/
theorem ringPutAll_stored_get {n : Nat} {bs : List Byte} {r r' : Ring} (h : ringPutAll n r bs = .stored r') :
    r'.get = r.get := by
  induction bs generalizing r with
  | nil => simp only [ringPutAll] at h; cases h; rfl
  | cons b bs ih =>
    simp only [ringPutAll] at h
    split at h
    · rename_i r1 h1
      rw [ih h, (ringPut_stored h1).2.2]
    · cases h
    · cases h

/-- The loop of `ENQ` keeps the canonical form, in any ring. -/
theorem ringPutAll_stored_wf {n : Nat} {bs : List Byte} {r r' : Ring} (hw : Memory.wf r.buf)
    (h : ringPutAll n r bs = .stored r') : Memory.wf r'.buf := by
  induction bs generalizing r with
  | nil => simp only [ringPutAll] at h; cases h; exact hw
  | cons b bs ih =>
    simp only [ringPutAll] at h
    split at h
    · rename_i r1 h1
      refine ih ?_ h
      rw [(ringPut_stored h1).2.2]
      exact wf_write hw _ _
    · cases h
    · cases h

end Sys2Proof.Machine
end

