-- ==== Sys2Proof/Laws/State.lean ====
section
/-! SUPPORT. One lemma per field per update: what each named update writes and that it writes nothing else. -/

namespace Sys2Proof.Machine

/-! ## arm -/

@[simp] theorem arm_cfg (t : Timer) (s : State) : (arm t s).cfg = s.cfg := by cases t <;> rfl
@[simp] theorem arm_ls (t : Timer) (s : State) : (arm t s).ls = s.ls := by cases t <;> rfl
@[simp] theorem arm_lastLevel (t : Timer) (s : State) : (arm t s).lastLevel = s.lastLevel := by cases t <;> rfl
@[simp] theorem arm_expData (t : Timer) (s : State) : (arm t s).expData = s.expData := by cases t <;> rfl
@[simp] theorem arm_rxCursor (t : Timer) (s : State) : (arm t s).rxCursor = s.rxCursor := by cases t <;> rfl
@[simp] theorem arm_rxByte (t : Timer) (s : State) : (arm t s).rxByte = s.rxByte := by cases t <;> rfl
@[simp] theorem arm_rxOverflow (t : Timer) (s : State) : (arm t s).rxOverflow = s.rxOverflow := by cases t <;> rfl
@[simp] theorem arm_rxRing (t : Timer) (s : State) : (arm t s).rxRing = s.rxRing := by cases t <;> rfl
@[simp] theorem arm_txActive (t : Timer) (s : State) : (arm t s).txActive = s.txActive := by cases t <;> rfl
@[simp] theorem arm_txShift (t : Timer) (s : State) : (arm t s).txShift = s.txShift := by cases t <;> rfl
@[simp] theorem arm_txBitsLeft (t : Timer) (s : State) : (arm t s).txBitsLeft = s.txBitsLeft := by cases t <;> rfl
@[simp] theorem arm_txAborted (t : Timer) (s : State) : (arm t s).txAborted = s.txAborted := by cases t <;> rfl
@[simp] theorem arm_txEn (t : Timer) (s : State) : (arm t s).txEn = s.txEn := by cases t <;> rfl
@[simp] theorem arm_txLevel (t : Timer) (s : State) : (arm t s).txLevel = s.txLevel := by cases t <;> rfl
@[simp] theorem arm_txRing (t : Timer) (s : State) : (arm t s).txRing = s.txRing := by cases t <;> rfl
@[simp] theorem arm_prevLevel (t : Timer) (s : State) : (arm t s).prevLevel = s.prevLevel := by cases t <;> rfl
@[simp] theorem arm_refused (t : Timer) (s : State) : (arm t s).refused = s.refused := by cases t <;> rfl
@[simp] theorem arm_resp (t : Timer) (s : State) : (arm t s).resp = s.resp := by cases t <;> rfl
@[simp] theorem arm_inputs (t : Timer) (s : State) : (arm t s).inputs = s.inputs := by cases t <;> rfl
@[simp] theorem arm_idle_idleArmed (s : State) : (arm .idle s).idleArmed = true := rfl
@[simp] theorem arm_idle_idleCnt (s : State) : (arm .idle s).idleCnt = s.cfg.tIdle := rfl
@[simp] theorem arm_idle_hbArmed (s : State) : (arm .idle s).hbArmed = s.hbArmed := rfl
@[simp] theorem arm_idle_hbCnt (s : State) : (arm .idle s).hbCnt = s.hbCnt := rfl
@[simp] theorem arm_idle_tickArmed (s : State) : (arm .idle s).tickArmed = s.tickArmed := rfl
@[simp] theorem arm_idle_tickCnt (s : State) : (arm .idle s).tickCnt = s.tickCnt := rfl
@[simp] theorem arm_hb_idleArmed (s : State) : (arm .hb s).idleArmed = s.idleArmed := rfl
@[simp] theorem arm_hb_idleCnt (s : State) : (arm .hb s).idleCnt = s.idleCnt := rfl
@[simp] theorem arm_hb_hbArmed (s : State) : (arm .hb s).hbArmed = true := rfl
@[simp] theorem arm_hb_hbCnt (s : State) : (arm .hb s).hbCnt = s.cfg.tHb := rfl
@[simp] theorem arm_hb_tickArmed (s : State) : (arm .hb s).tickArmed = s.tickArmed := rfl
@[simp] theorem arm_hb_tickCnt (s : State) : (arm .hb s).tickCnt = s.tickCnt := rfl
@[simp] theorem arm_tick_idleArmed (s : State) : (arm .tick s).idleArmed = s.idleArmed := rfl
@[simp] theorem arm_tick_idleCnt (s : State) : (arm .tick s).idleCnt = s.idleCnt := rfl
@[simp] theorem arm_tick_hbArmed (s : State) : (arm .tick s).hbArmed = s.hbArmed := rfl
@[simp] theorem arm_tick_hbCnt (s : State) : (arm .tick s).hbCnt = s.hbCnt := rfl
@[simp] theorem arm_tick_tickArmed (s : State) : (arm .tick s).tickArmed = true := rfl
@[simp] theorem arm_tick_tickCnt (s : State) : (arm .tick s).tickCnt = s.cfg.halfBit := rfl

/-! ## disarm -/

@[simp] theorem disarm_cfg (t : Timer) (s : State) : (disarm t s).cfg = s.cfg := by cases t <;> rfl
@[simp] theorem disarm_ls (t : Timer) (s : State) : (disarm t s).ls = s.ls := by cases t <;> rfl
@[simp] theorem disarm_lastLevel (t : Timer) (s : State) : (disarm t s).lastLevel = s.lastLevel := by cases t <;> rfl
@[simp] theorem disarm_expData (t : Timer) (s : State) : (disarm t s).expData = s.expData := by cases t <;> rfl
@[simp] theorem disarm_rxCursor (t : Timer) (s : State) : (disarm t s).rxCursor = s.rxCursor := by cases t <;> rfl
@[simp] theorem disarm_rxByte (t : Timer) (s : State) : (disarm t s).rxByte = s.rxByte := by cases t <;> rfl
@[simp] theorem disarm_rxOverflow (t : Timer) (s : State) : (disarm t s).rxOverflow = s.rxOverflow := by cases t <;> rfl
@[simp] theorem disarm_rxRing (t : Timer) (s : State) : (disarm t s).rxRing = s.rxRing := by cases t <;> rfl
@[simp] theorem disarm_txActive (t : Timer) (s : State) : (disarm t s).txActive = s.txActive := by cases t <;> rfl
@[simp] theorem disarm_txShift (t : Timer) (s : State) : (disarm t s).txShift = s.txShift := by cases t <;> rfl
@[simp] theorem disarm_txBitsLeft (t : Timer) (s : State) : (disarm t s).txBitsLeft = s.txBitsLeft := by cases t <;> rfl
@[simp] theorem disarm_txAborted (t : Timer) (s : State) : (disarm t s).txAborted = s.txAborted := by cases t <;> rfl
@[simp] theorem disarm_txEn (t : Timer) (s : State) : (disarm t s).txEn = s.txEn := by cases t <;> rfl
@[simp] theorem disarm_txLevel (t : Timer) (s : State) : (disarm t s).txLevel = s.txLevel := by cases t <;> rfl
@[simp] theorem disarm_txRing (t : Timer) (s : State) : (disarm t s).txRing = s.txRing := by cases t <;> rfl
@[simp] theorem disarm_prevLevel (t : Timer) (s : State) : (disarm t s).prevLevel = s.prevLevel := by cases t <;> rfl
@[simp] theorem disarm_refused (t : Timer) (s : State) : (disarm t s).refused = s.refused := by cases t <;> rfl
@[simp] theorem disarm_resp (t : Timer) (s : State) : (disarm t s).resp = s.resp := by cases t <;> rfl
@[simp] theorem disarm_inputs (t : Timer) (s : State) : (disarm t s).inputs = s.inputs := by cases t <;> rfl
@[simp] theorem disarm_idle_idleArmed (s : State) : (disarm .idle s).idleArmed = false := rfl
@[simp] theorem disarm_idle_idleCnt (s : State) : (disarm .idle s).idleCnt = s.idleCnt := rfl
@[simp] theorem disarm_idle_hbArmed (s : State) : (disarm .idle s).hbArmed = s.hbArmed := rfl
@[simp] theorem disarm_idle_hbCnt (s : State) : (disarm .idle s).hbCnt = s.hbCnt := rfl
@[simp] theorem disarm_idle_tickArmed (s : State) : (disarm .idle s).tickArmed = s.tickArmed := rfl
@[simp] theorem disarm_idle_tickCnt (s : State) : (disarm .idle s).tickCnt = s.tickCnt := rfl
@[simp] theorem disarm_hb_idleArmed (s : State) : (disarm .hb s).idleArmed = s.idleArmed := rfl
@[simp] theorem disarm_hb_idleCnt (s : State) : (disarm .hb s).idleCnt = s.idleCnt := rfl
@[simp] theorem disarm_hb_hbArmed (s : State) : (disarm .hb s).hbArmed = false := rfl
@[simp] theorem disarm_hb_hbCnt (s : State) : (disarm .hb s).hbCnt = s.hbCnt := rfl
@[simp] theorem disarm_hb_tickArmed (s : State) : (disarm .hb s).tickArmed = s.tickArmed := rfl
@[simp] theorem disarm_hb_tickCnt (s : State) : (disarm .hb s).tickCnt = s.tickCnt := rfl
@[simp] theorem disarm_tick_idleArmed (s : State) : (disarm .tick s).idleArmed = s.idleArmed := rfl
@[simp] theorem disarm_tick_idleCnt (s : State) : (disarm .tick s).idleCnt = s.idleCnt := rfl
@[simp] theorem disarm_tick_hbArmed (s : State) : (disarm .tick s).hbArmed = s.hbArmed := rfl
@[simp] theorem disarm_tick_hbCnt (s : State) : (disarm .tick s).hbCnt = s.hbCnt := rfl
@[simp] theorem disarm_tick_tickArmed (s : State) : (disarm .tick s).tickArmed = false := rfl
@[simp] theorem disarm_tick_tickCnt (s : State) : (disarm .tick s).tickCnt = s.tickCnt := rfl

/-! ## respond -/

@[simp] theorem respond_cfg (c : RespCode) (d : RespData) (s : State) : (respond c d s).cfg = s.cfg := rfl
@[simp] theorem respond_ls (c : RespCode) (d : RespData) (s : State) : (respond c d s).ls = s.ls := rfl
@[simp] theorem respond_lastLevel (c : RespCode) (d : RespData) (s : State) : (respond c d s).lastLevel = s.lastLevel := rfl
@[simp] theorem respond_idleArmed (c : RespCode) (d : RespData) (s : State) : (respond c d s).idleArmed = s.idleArmed := rfl
@[simp] theorem respond_expData (c : RespCode) (d : RespData) (s : State) : (respond c d s).expData = s.expData := rfl
@[simp] theorem respond_rxCursor (c : RespCode) (d : RespData) (s : State) : (respond c d s).rxCursor = s.rxCursor := rfl
@[simp] theorem respond_rxByte (c : RespCode) (d : RespData) (s : State) : (respond c d s).rxByte = s.rxByte := rfl
@[simp] theorem respond_hbArmed (c : RespCode) (d : RespData) (s : State) : (respond c d s).hbArmed = s.hbArmed := rfl
@[simp] theorem respond_rxOverflow (c : RespCode) (d : RespData) (s : State) : (respond c d s).rxOverflow = s.rxOverflow := rfl
@[simp] theorem respond_rxRing (c : RespCode) (d : RespData) (s : State) : (respond c d s).rxRing = s.rxRing := rfl
@[simp] theorem respond_idleCnt (c : RespCode) (d : RespData) (s : State) : (respond c d s).idleCnt = s.idleCnt := rfl
@[simp] theorem respond_hbCnt (c : RespCode) (d : RespData) (s : State) : (respond c d s).hbCnt = s.hbCnt := rfl
@[simp] theorem respond_tickCnt (c : RespCode) (d : RespData) (s : State) : (respond c d s).tickCnt = s.tickCnt := rfl
@[simp] theorem respond_txActive (c : RespCode) (d : RespData) (s : State) : (respond c d s).txActive = s.txActive := rfl
@[simp] theorem respond_txShift (c : RespCode) (d : RespData) (s : State) : (respond c d s).txShift = s.txShift := rfl
@[simp] theorem respond_txBitsLeft (c : RespCode) (d : RespData) (s : State) : (respond c d s).txBitsLeft = s.txBitsLeft := rfl
@[simp] theorem respond_tickArmed (c : RespCode) (d : RespData) (s : State) : (respond c d s).tickArmed = s.tickArmed := rfl
@[simp] theorem respond_txAborted (c : RespCode) (d : RespData) (s : State) : (respond c d s).txAborted = s.txAborted := rfl
@[simp] theorem respond_txEn (c : RespCode) (d : RespData) (s : State) : (respond c d s).txEn = s.txEn := rfl
@[simp] theorem respond_txLevel (c : RespCode) (d : RespData) (s : State) : (respond c d s).txLevel = s.txLevel := rfl
@[simp] theorem respond_txRing (c : RespCode) (d : RespData) (s : State) : (respond c d s).txRing = s.txRing := rfl
@[simp] theorem respond_prevLevel (c : RespCode) (d : RespData) (s : State) : (respond c d s).prevLevel = s.prevLevel := rfl
@[simp] theorem respond_refused (c : RespCode) (d : RespData) (s : State) : (respond c d s).refused = s.refused := rfl
@[simp] theorem respond_resp (c : RespCode) (d : RespData) (s : State) : (respond c d s).resp = (some ⟨c, d⟩) := rfl
@[simp] theorem respond_inputs (c : RespCode) (d : RespData) (s : State) : (respond c d s).inputs = s.inputs := rfl

/-! ## raise -/

@[simp] theorem raise_cfg (c : RespCode) (s : State) : (raise c s).cfg = s.cfg := rfl
@[simp] theorem raise_ls (c : RespCode) (s : State) : (raise c s).ls = s.ls := rfl
@[simp] theorem raise_lastLevel (c : RespCode) (s : State) : (raise c s).lastLevel = s.lastLevel := rfl
@[simp] theorem raise_idleArmed (c : RespCode) (s : State) : (raise c s).idleArmed = s.idleArmed := rfl
@[simp] theorem raise_expData (c : RespCode) (s : State) : (raise c s).expData = s.expData := rfl
@[simp] theorem raise_rxCursor (c : RespCode) (s : State) : (raise c s).rxCursor = s.rxCursor := rfl
@[simp] theorem raise_rxByte (c : RespCode) (s : State) : (raise c s).rxByte = s.rxByte := rfl
@[simp] theorem raise_hbArmed (c : RespCode) (s : State) : (raise c s).hbArmed = s.hbArmed := rfl
@[simp] theorem raise_rxOverflow (c : RespCode) (s : State) : (raise c s).rxOverflow = s.rxOverflow := rfl
@[simp] theorem raise_rxRing (c : RespCode) (s : State) : (raise c s).rxRing = s.rxRing := rfl
@[simp] theorem raise_idleCnt (c : RespCode) (s : State) : (raise c s).idleCnt = s.idleCnt := rfl
@[simp] theorem raise_hbCnt (c : RespCode) (s : State) : (raise c s).hbCnt = s.hbCnt := rfl
@[simp] theorem raise_tickCnt (c : RespCode) (s : State) : (raise c s).tickCnt = s.tickCnt := rfl
@[simp] theorem raise_txActive (c : RespCode) (s : State) : (raise c s).txActive = s.txActive := rfl
@[simp] theorem raise_txShift (c : RespCode) (s : State) : (raise c s).txShift = s.txShift := rfl
@[simp] theorem raise_txBitsLeft (c : RespCode) (s : State) : (raise c s).txBitsLeft = s.txBitsLeft := rfl
@[simp] theorem raise_tickArmed (c : RespCode) (s : State) : (raise c s).tickArmed = s.tickArmed := rfl
@[simp] theorem raise_txAborted (c : RespCode) (s : State) : (raise c s).txAborted = s.txAborted := rfl
@[simp] theorem raise_txEn (c : RespCode) (s : State) : (raise c s).txEn = s.txEn := rfl
@[simp] theorem raise_txLevel (c : RespCode) (s : State) : (raise c s).txLevel = s.txLevel := rfl
@[simp] theorem raise_txRing (c : RespCode) (s : State) : (raise c s).txRing = s.txRing := rfl
@[simp] theorem raise_prevLevel (c : RespCode) (s : State) : (raise c s).prevLevel = s.prevLevel := rfl
@[simp] theorem raise_refused (c : RespCode) (s : State) : (raise c s).refused = s.refused := rfl
@[simp] theorem raise_resp (c : RespCode) (s : State) : (raise c s).resp = (some ⟨c, .none⟩) := rfl
@[simp] theorem raise_inputs (c : RespCode) (s : State) : (raise c s).inputs = s.inputs := rfl

/-! ## refuse -/

@[simp] theorem refuse_cfg (s : State) : (refuse s).cfg = s.cfg := rfl
@[simp] theorem refuse_ls (s : State) : (refuse s).ls = s.ls := rfl
@[simp] theorem refuse_lastLevel (s : State) : (refuse s).lastLevel = s.lastLevel := rfl
@[simp] theorem refuse_idleArmed (s : State) : (refuse s).idleArmed = s.idleArmed := rfl
@[simp] theorem refuse_expData (s : State) : (refuse s).expData = s.expData := rfl
@[simp] theorem refuse_rxCursor (s : State) : (refuse s).rxCursor = s.rxCursor := rfl
@[simp] theorem refuse_rxByte (s : State) : (refuse s).rxByte = s.rxByte := rfl
@[simp] theorem refuse_hbArmed (s : State) : (refuse s).hbArmed = s.hbArmed := rfl
@[simp] theorem refuse_rxOverflow (s : State) : (refuse s).rxOverflow = s.rxOverflow := rfl
@[simp] theorem refuse_rxRing (s : State) : (refuse s).rxRing = s.rxRing := rfl
@[simp] theorem refuse_idleCnt (s : State) : (refuse s).idleCnt = s.idleCnt := rfl
@[simp] theorem refuse_hbCnt (s : State) : (refuse s).hbCnt = s.hbCnt := rfl
@[simp] theorem refuse_tickCnt (s : State) : (refuse s).tickCnt = s.tickCnt := rfl
@[simp] theorem refuse_txActive (s : State) : (refuse s).txActive = s.txActive := rfl
@[simp] theorem refuse_txShift (s : State) : (refuse s).txShift = s.txShift := rfl
@[simp] theorem refuse_txBitsLeft (s : State) : (refuse s).txBitsLeft = s.txBitsLeft := rfl
@[simp] theorem refuse_tickArmed (s : State) : (refuse s).tickArmed = s.tickArmed := rfl
@[simp] theorem refuse_txAborted (s : State) : (refuse s).txAborted = s.txAborted := rfl
@[simp] theorem refuse_txEn (s : State) : (refuse s).txEn = s.txEn := rfl
@[simp] theorem refuse_txLevel (s : State) : (refuse s).txLevel = s.txLevel := rfl
@[simp] theorem refuse_txRing (s : State) : (refuse s).txRing = s.txRing := rfl
@[simp] theorem refuse_prevLevel (s : State) : (refuse s).prevLevel = s.prevLevel := rfl
@[simp] theorem refuse_refused (s : State) : (refuse s).refused = true := rfl
@[simp] theorem refuse_resp (s : State) : (refuse s).resp = (some ⟨.refused, .none⟩) := rfl
@[simp] theorem refuse_inputs (s : State) : (refuse s).inputs = s.inputs := rfl

/-! ## release -/

@[simp] theorem release_cfg (s : State) : (release s).cfg = s.cfg := rfl
@[simp] theorem release_ls (s : State) : (release s).ls = s.ls := rfl
@[simp] theorem release_lastLevel (s : State) : (release s).lastLevel = s.lastLevel := rfl
@[simp] theorem release_idleArmed (s : State) : (release s).idleArmed = s.idleArmed := rfl
@[simp] theorem release_expData (s : State) : (release s).expData = s.expData := rfl
@[simp] theorem release_rxCursor (s : State) : (release s).rxCursor = s.rxCursor := rfl
@[simp] theorem release_rxByte (s : State) : (release s).rxByte = s.rxByte := rfl
@[simp] theorem release_hbArmed (s : State) : (release s).hbArmed = s.hbArmed := rfl
@[simp] theorem release_rxOverflow (s : State) : (release s).rxOverflow = s.rxOverflow := rfl
@[simp] theorem release_rxRing (s : State) : (release s).rxRing = s.rxRing := rfl
@[simp] theorem release_idleCnt (s : State) : (release s).idleCnt = s.idleCnt := rfl
@[simp] theorem release_hbCnt (s : State) : (release s).hbCnt = s.hbCnt := rfl
@[simp] theorem release_tickCnt (s : State) : (release s).tickCnt = s.tickCnt := rfl
@[simp] theorem release_txActive (s : State) : (release s).txActive = s.txActive := rfl
@[simp] theorem release_txShift (s : State) : (release s).txShift = s.txShift := rfl
@[simp] theorem release_txBitsLeft (s : State) : (release s).txBitsLeft = s.txBitsLeft := rfl
@[simp] theorem release_tickArmed (s : State) : (release s).tickArmed = s.tickArmed := rfl
@[simp] theorem release_txAborted (s : State) : (release s).txAborted = s.txAborted := rfl
@[simp] theorem release_txEn (s : State) : (release s).txEn = false := rfl
@[simp] theorem release_txLevel (s : State) : (release s).txLevel = s.cfg.releasedLevel := rfl
@[simp] theorem release_txRing (s : State) : (release s).txRing = s.txRing := rfl
@[simp] theorem release_prevLevel (s : State) : (release s).prevLevel = s.prevLevel := rfl
@[simp] theorem release_refused (s : State) : (release s).refused = s.refused := rfl
@[simp] theorem release_resp (s : State) : (release s).resp = s.resp := rfl
@[simp] theorem release_inputs (s : State) : (release s).inputs = s.inputs := rfl

/-! ## txRelease -/

@[simp] theorem txRelease_cfg (s : State) : (txRelease s).cfg = s.cfg := rfl
@[simp] theorem txRelease_ls (s : State) : (txRelease s).ls = s.ls := rfl
@[simp] theorem txRelease_lastLevel (s : State) : (txRelease s).lastLevel = s.lastLevel := rfl
@[simp] theorem txRelease_idleArmed (s : State) : (txRelease s).idleArmed = s.idleArmed := rfl
@[simp] theorem txRelease_expData (s : State) : (txRelease s).expData = s.expData := rfl
@[simp] theorem txRelease_rxCursor (s : State) : (txRelease s).rxCursor = s.rxCursor := rfl
@[simp] theorem txRelease_rxByte (s : State) : (txRelease s).rxByte = s.rxByte := rfl
@[simp] theorem txRelease_hbArmed (s : State) : (txRelease s).hbArmed = s.hbArmed := rfl
@[simp] theorem txRelease_rxOverflow (s : State) : (txRelease s).rxOverflow = s.rxOverflow := rfl
@[simp] theorem txRelease_rxRing (s : State) : (txRelease s).rxRing = s.rxRing := rfl
@[simp] theorem txRelease_idleCnt (s : State) : (txRelease s).idleCnt = s.idleCnt := rfl
@[simp] theorem txRelease_hbCnt (s : State) : (txRelease s).hbCnt = s.hbCnt := rfl
@[simp] theorem txRelease_tickCnt (s : State) : (txRelease s).tickCnt = s.tickCnt := rfl
@[simp] theorem txRelease_txActive (s : State) : (txRelease s).txActive = false := rfl
@[simp] theorem txRelease_txShift (s : State) : (txRelease s).txShift = 0x00#8 := rfl
@[simp] theorem txRelease_txBitsLeft (s : State) : (txRelease s).txBitsLeft = 0 := rfl
@[simp] theorem txRelease_tickArmed (s : State) : (txRelease s).tickArmed = false := rfl
@[simp] theorem txRelease_txAborted (s : State) : (txRelease s).txAborted = s.txAborted := rfl
@[simp] theorem txRelease_txEn (s : State) : (txRelease s).txEn = false := rfl
@[simp] theorem txRelease_txLevel (s : State) : (txRelease s).txLevel = s.cfg.releasedLevel := rfl
@[simp] theorem txRelease_txRing (s : State) : (txRelease s).txRing = s.txRing := rfl
@[simp] theorem txRelease_prevLevel (s : State) : (txRelease s).prevLevel = s.prevLevel := rfl
@[simp] theorem txRelease_refused (s : State) : (txRelease s).refused = s.refused := rfl
@[simp] theorem txRelease_resp (s : State) : (txRelease s).resp = s.resp := rfl
@[simp] theorem txRelease_inputs (s : State) : (txRelease s).inputs = s.inputs := rfl

/-! ## txAbort -/

@[simp] theorem txAbort_cfg (s : State) : (txAbort s).cfg = s.cfg := rfl
@[simp] theorem txAbort_ls (s : State) : (txAbort s).ls = s.ls := rfl
@[simp] theorem txAbort_lastLevel (s : State) : (txAbort s).lastLevel = s.lastLevel := rfl
@[simp] theorem txAbort_idleArmed (s : State) : (txAbort s).idleArmed = s.idleArmed := rfl
@[simp] theorem txAbort_expData (s : State) : (txAbort s).expData = s.expData := rfl
@[simp] theorem txAbort_rxCursor (s : State) : (txAbort s).rxCursor = s.rxCursor := rfl
@[simp] theorem txAbort_rxByte (s : State) : (txAbort s).rxByte = s.rxByte := rfl
@[simp] theorem txAbort_hbArmed (s : State) : (txAbort s).hbArmed = s.hbArmed := rfl
@[simp] theorem txAbort_rxOverflow (s : State) : (txAbort s).rxOverflow = s.rxOverflow := rfl
@[simp] theorem txAbort_rxRing (s : State) : (txAbort s).rxRing = s.rxRing := rfl
@[simp] theorem txAbort_idleCnt (s : State) : (txAbort s).idleCnt = s.idleCnt := rfl
@[simp] theorem txAbort_hbCnt (s : State) : (txAbort s).hbCnt = s.hbCnt := rfl
@[simp] theorem txAbort_tickCnt (s : State) : (txAbort s).tickCnt = s.tickCnt := rfl
@[simp] theorem txAbort_txActive (s : State) : (txAbort s).txActive = false := rfl
@[simp] theorem txAbort_txShift (s : State) : (txAbort s).txShift = 0x00#8 := rfl
@[simp] theorem txAbort_txBitsLeft (s : State) : (txAbort s).txBitsLeft = 0 := rfl
@[simp] theorem txAbort_tickArmed (s : State) : (txAbort s).tickArmed = false := rfl
@[simp] theorem txAbort_txAborted (s : State) : (txAbort s).txAborted = true := rfl
@[simp] theorem txAbort_txEn (s : State) : (txAbort s).txEn = false := rfl
@[simp] theorem txAbort_txLevel (s : State) : (txAbort s).txLevel = s.cfg.releasedLevel := rfl
@[simp] theorem txAbort_txRing (s : State) : (txAbort s).txRing = (ringClear s.txRing) := rfl
@[simp] theorem txAbort_prevLevel (s : State) : (txAbort s).prevLevel = s.prevLevel := rfl
@[simp] theorem txAbort_refused (s : State) : (txAbort s).refused = s.refused := rfl
@[simp] theorem txAbort_resp (s : State) : (txAbort s).resp = s.resp := rfl
@[simp] theorem txAbort_inputs (s : State) : (txAbort s).inputs = s.inputs := rfl

/-! ## driveBit -/

@[simp] theorem driveBit_cfg (s : State) : (driveBit s).cfg = s.cfg := rfl
@[simp] theorem driveBit_ls (s : State) : (driveBit s).ls = s.ls := rfl
@[simp] theorem driveBit_lastLevel (s : State) : (driveBit s).lastLevel = s.lastLevel := rfl
@[simp] theorem driveBit_idleArmed (s : State) : (driveBit s).idleArmed = s.idleArmed := rfl
@[simp] theorem driveBit_expData (s : State) : (driveBit s).expData = s.expData := rfl
@[simp] theorem driveBit_rxCursor (s : State) : (driveBit s).rxCursor = s.rxCursor := rfl
@[simp] theorem driveBit_rxByte (s : State) : (driveBit s).rxByte = s.rxByte := rfl
@[simp] theorem driveBit_hbArmed (s : State) : (driveBit s).hbArmed = s.hbArmed := rfl
@[simp] theorem driveBit_rxOverflow (s : State) : (driveBit s).rxOverflow = s.rxOverflow := rfl
@[simp] theorem driveBit_rxRing (s : State) : (driveBit s).rxRing = s.rxRing := rfl
@[simp] theorem driveBit_idleCnt (s : State) : (driveBit s).idleCnt = s.idleCnt := rfl
@[simp] theorem driveBit_hbCnt (s : State) : (driveBit s).hbCnt = s.hbCnt := rfl
@[simp] theorem driveBit_tickCnt (s : State) : (driveBit s).tickCnt = s.tickCnt := rfl
@[simp] theorem driveBit_txActive (s : State) : (driveBit s).txActive = s.txActive := rfl
@[simp] theorem driveBit_txShift (s : State) : (driveBit s).txShift = (s.txShift <<< 1) := rfl
@[simp] theorem driveBit_txBitsLeft (s : State) : (driveBit s).txBitsLeft = (s.txBitsLeft - 1) := rfl
@[simp] theorem driveBit_tickArmed (s : State) : (driveBit s).tickArmed = s.tickArmed := rfl
@[simp] theorem driveBit_txAborted (s : State) : (driveBit s).txAborted = s.txAborted := rfl
@[simp] theorem driveBit_txEn (s : State) : (driveBit s).txEn = true := rfl
@[simp] theorem driveBit_txLevel (s : State) : (driveBit s).txLevel = (s.txShift.getLsbD 7) := rfl
@[simp] theorem driveBit_txRing (s : State) : (driveBit s).txRing = s.txRing := rfl
@[simp] theorem driveBit_prevLevel (s : State) : (driveBit s).prevLevel = s.prevLevel := rfl
@[simp] theorem driveBit_refused (s : State) : (driveBit s).refused = s.refused := rfl
@[simp] theorem driveBit_resp (s : State) : (driveBit s).resp = s.resp := rfl
@[simp] theorem driveBit_inputs (s : State) : (driveBit s).inputs = s.inputs := rfl

/-! ## sampleBit -/

@[simp] theorem sampleBit_cfg (l : Bit) (s : State) : (sampleBit l s).cfg = s.cfg := rfl
@[simp] theorem sampleBit_ls (l : Bit) (s : State) : (sampleBit l s).ls = s.ls := rfl
@[simp] theorem sampleBit_lastLevel (l : Bit) (s : State) : (sampleBit l s).lastLevel = s.lastLevel := rfl
@[simp] theorem sampleBit_idleArmed (l : Bit) (s : State) : (sampleBit l s).idleArmed = s.idleArmed := rfl
@[simp] theorem sampleBit_expData (l : Bit) (s : State) : (sampleBit l s).expData = s.expData := rfl
@[simp] theorem sampleBit_rxCursor (l : Bit) (s : State) : (sampleBit l s).rxCursor = s.rxCursor := rfl
@[simp] theorem sampleBit_rxByte (l : Bit) (s : State) : (sampleBit l s).rxByte = (setBit s.rxByte (7 - s.rxCursor.val) l) := rfl
@[simp] theorem sampleBit_hbArmed (l : Bit) (s : State) : (sampleBit l s).hbArmed = s.hbArmed := rfl
@[simp] theorem sampleBit_rxOverflow (l : Bit) (s : State) : (sampleBit l s).rxOverflow = s.rxOverflow := rfl
@[simp] theorem sampleBit_rxRing (l : Bit) (s : State) : (sampleBit l s).rxRing = s.rxRing := rfl
@[simp] theorem sampleBit_idleCnt (l : Bit) (s : State) : (sampleBit l s).idleCnt = s.idleCnt := rfl
@[simp] theorem sampleBit_hbCnt (l : Bit) (s : State) : (sampleBit l s).hbCnt = s.hbCnt := rfl
@[simp] theorem sampleBit_tickCnt (l : Bit) (s : State) : (sampleBit l s).tickCnt = s.tickCnt := rfl
@[simp] theorem sampleBit_txActive (l : Bit) (s : State) : (sampleBit l s).txActive = s.txActive := rfl
@[simp] theorem sampleBit_txShift (l : Bit) (s : State) : (sampleBit l s).txShift = s.txShift := rfl
@[simp] theorem sampleBit_txBitsLeft (l : Bit) (s : State) : (sampleBit l s).txBitsLeft = s.txBitsLeft := rfl
@[simp] theorem sampleBit_tickArmed (l : Bit) (s : State) : (sampleBit l s).tickArmed = s.tickArmed := rfl
@[simp] theorem sampleBit_txAborted (l : Bit) (s : State) : (sampleBit l s).txAborted = s.txAborted := rfl
@[simp] theorem sampleBit_txEn (l : Bit) (s : State) : (sampleBit l s).txEn = s.txEn := rfl
@[simp] theorem sampleBit_txLevel (l : Bit) (s : State) : (sampleBit l s).txLevel = s.txLevel := rfl
@[simp] theorem sampleBit_txRing (l : Bit) (s : State) : (sampleBit l s).txRing = s.txRing := rfl
@[simp] theorem sampleBit_prevLevel (l : Bit) (s : State) : (sampleBit l s).prevLevel = s.prevLevel := rfl
@[simp] theorem sampleBit_refused (l : Bit) (s : State) : (sampleBit l s).refused = s.refused := rfl
@[simp] theorem sampleBit_resp (l : Bit) (s : State) : (sampleBit l s).resp = s.resp := rfl
@[simp] theorem sampleBit_inputs (l : Bit) (s : State) : (sampleBit l s).inputs = s.inputs := rfl

/-! ## rxBoundary -/

@[simp] theorem rxBoundary_cfg (s : State) : (rxBoundary s).cfg = s.cfg := rfl
@[simp] theorem rxBoundary_ls (s : State) : (rxBoundary s).ls = s.ls := rfl
@[simp] theorem rxBoundary_lastLevel (s : State) : (rxBoundary s).lastLevel = s.lastLevel := rfl
@[simp] theorem rxBoundary_idleArmed (s : State) : (rxBoundary s).idleArmed = s.idleArmed := rfl
@[simp] theorem rxBoundary_expData (s : State) : (rxBoundary s).expData = true := rfl
@[simp] theorem rxBoundary_rxCursor (s : State) : (rxBoundary s).rxCursor = 0 := rfl
@[simp] theorem rxBoundary_rxByte (s : State) : (rxBoundary s).rxByte = 0x00#8 := rfl
@[simp] theorem rxBoundary_hbArmed (s : State) : (rxBoundary s).hbArmed = false := rfl
@[simp] theorem rxBoundary_rxOverflow (s : State) : (rxBoundary s).rxOverflow = s.rxOverflow := rfl
@[simp] theorem rxBoundary_rxRing (s : State) : (rxBoundary s).rxRing = s.rxRing := rfl
@[simp] theorem rxBoundary_idleCnt (s : State) : (rxBoundary s).idleCnt = s.idleCnt := rfl
@[simp] theorem rxBoundary_hbCnt (s : State) : (rxBoundary s).hbCnt = s.hbCnt := rfl
@[simp] theorem rxBoundary_tickCnt (s : State) : (rxBoundary s).tickCnt = s.tickCnt := rfl
@[simp] theorem rxBoundary_txActive (s : State) : (rxBoundary s).txActive = s.txActive := rfl
@[simp] theorem rxBoundary_txShift (s : State) : (rxBoundary s).txShift = s.txShift := rfl
@[simp] theorem rxBoundary_txBitsLeft (s : State) : (rxBoundary s).txBitsLeft = s.txBitsLeft := rfl
@[simp] theorem rxBoundary_tickArmed (s : State) : (rxBoundary s).tickArmed = s.tickArmed := rfl
@[simp] theorem rxBoundary_txAborted (s : State) : (rxBoundary s).txAborted = s.txAborted := rfl
@[simp] theorem rxBoundary_txEn (s : State) : (rxBoundary s).txEn = s.txEn := rfl
@[simp] theorem rxBoundary_txLevel (s : State) : (rxBoundary s).txLevel = s.txLevel := rfl
@[simp] theorem rxBoundary_txRing (s : State) : (rxBoundary s).txRing = s.txRing := rfl
@[simp] theorem rxBoundary_prevLevel (s : State) : (rxBoundary s).prevLevel = s.prevLevel := rfl
@[simp] theorem rxBoundary_refused (s : State) : (rxBoundary s).refused = s.refused := rfl
@[simp] theorem rxBoundary_resp (s : State) : (rxBoundary s).resp = s.resp := rfl
@[simp] theorem rxBoundary_inputs (s : State) : (rxBoundary s).inputs = s.inputs := rfl

/-! ## monitorEdge -/

@[simp] theorem monitorEdge_cfg (l : Bit) (s : State) : (monitorEdge l s).cfg = s.cfg := rfl
@[simp] theorem monitorEdge_ls (l : Bit) (s : State) : (monitorEdge l s).ls = .busy := rfl
@[simp] theorem monitorEdge_lastLevel (l : Bit) (s : State) : (monitorEdge l s).lastLevel = l := rfl
@[simp] theorem monitorEdge_idleArmed (l : Bit) (s : State) : (monitorEdge l s).idleArmed = true := rfl
@[simp] theorem monitorEdge_expData (l : Bit) (s : State) : (monitorEdge l s).expData = s.expData := rfl
@[simp] theorem monitorEdge_rxCursor (l : Bit) (s : State) : (monitorEdge l s).rxCursor = s.rxCursor := rfl
@[simp] theorem monitorEdge_rxByte (l : Bit) (s : State) : (monitorEdge l s).rxByte = s.rxByte := rfl
@[simp] theorem monitorEdge_hbArmed (l : Bit) (s : State) : (monitorEdge l s).hbArmed = s.hbArmed := rfl
@[simp] theorem monitorEdge_rxOverflow (l : Bit) (s : State) : (monitorEdge l s).rxOverflow = s.rxOverflow := rfl
@[simp] theorem monitorEdge_rxRing (l : Bit) (s : State) : (monitorEdge l s).rxRing = s.rxRing := rfl
@[simp] theorem monitorEdge_idleCnt (l : Bit) (s : State) : (monitorEdge l s).idleCnt = s.cfg.tIdle := rfl
@[simp] theorem monitorEdge_hbCnt (l : Bit) (s : State) : (monitorEdge l s).hbCnt = s.hbCnt := rfl
@[simp] theorem monitorEdge_tickCnt (l : Bit) (s : State) : (monitorEdge l s).tickCnt = s.tickCnt := rfl
@[simp] theorem monitorEdge_txActive (l : Bit) (s : State) : (monitorEdge l s).txActive = s.txActive := rfl
@[simp] theorem monitorEdge_txShift (l : Bit) (s : State) : (monitorEdge l s).txShift = s.txShift := rfl
@[simp] theorem monitorEdge_txBitsLeft (l : Bit) (s : State) : (monitorEdge l s).txBitsLeft = s.txBitsLeft := rfl
@[simp] theorem monitorEdge_tickArmed (l : Bit) (s : State) : (monitorEdge l s).tickArmed = s.tickArmed := rfl
@[simp] theorem monitorEdge_txAborted (l : Bit) (s : State) : (monitorEdge l s).txAborted = s.txAborted := rfl
@[simp] theorem monitorEdge_txEn (l : Bit) (s : State) : (monitorEdge l s).txEn = s.txEn := rfl
@[simp] theorem monitorEdge_txLevel (l : Bit) (s : State) : (monitorEdge l s).txLevel = s.txLevel := rfl
@[simp] theorem monitorEdge_txRing (l : Bit) (s : State) : (monitorEdge l s).txRing = s.txRing := rfl
@[simp] theorem monitorEdge_prevLevel (l : Bit) (s : State) : (monitorEdge l s).prevLevel = s.prevLevel := rfl
@[simp] theorem monitorEdge_refused (l : Bit) (s : State) : (monitorEdge l s).refused = s.refused := rfl
@[simp] theorem monitorEdge_resp (l : Bit) (s : State) : (monitorEdge l s).resp = s.resp := rfl
@[simp] theorem monitorEdge_inputs (l : Bit) (s : State) : (monitorEdge l s).inputs = s.inputs := rfl

/-! ## clearFlags -/

@[simp] theorem clearFlags_cfg (mask : Byte) (s : State) : (clearFlags mask s).cfg = s.cfg := rfl
@[simp] theorem clearFlags_ls (mask : Byte) (s : State) : (clearFlags mask s).ls = s.ls := rfl
@[simp] theorem clearFlags_lastLevel (mask : Byte) (s : State) : (clearFlags mask s).lastLevel = s.lastLevel := rfl
@[simp] theorem clearFlags_idleArmed (mask : Byte) (s : State) : (clearFlags mask s).idleArmed = s.idleArmed := rfl
@[simp] theorem clearFlags_expData (mask : Byte) (s : State) : (clearFlags mask s).expData = s.expData := rfl
@[simp] theorem clearFlags_rxCursor (mask : Byte) (s : State) : (clearFlags mask s).rxCursor = s.rxCursor := rfl
@[simp] theorem clearFlags_rxByte (mask : Byte) (s : State) : (clearFlags mask s).rxByte = s.rxByte := rfl
@[simp] theorem clearFlags_hbArmed (mask : Byte) (s : State) : (clearFlags mask s).hbArmed = s.hbArmed := rfl
@[simp] theorem clearFlags_rxOverflow (mask : Byte) (s : State) : (clearFlags mask s).rxOverflow = (if maskClearsOverflow mask then false else s.rxOverflow) := rfl
@[simp] theorem clearFlags_rxRing (mask : Byte) (s : State) : (clearFlags mask s).rxRing = s.rxRing := rfl
@[simp] theorem clearFlags_idleCnt (mask : Byte) (s : State) : (clearFlags mask s).idleCnt = s.idleCnt := rfl
@[simp] theorem clearFlags_hbCnt (mask : Byte) (s : State) : (clearFlags mask s).hbCnt = s.hbCnt := rfl
@[simp] theorem clearFlags_tickCnt (mask : Byte) (s : State) : (clearFlags mask s).tickCnt = s.tickCnt := rfl
@[simp] theorem clearFlags_txActive (mask : Byte) (s : State) : (clearFlags mask s).txActive = s.txActive := rfl
@[simp] theorem clearFlags_txShift (mask : Byte) (s : State) : (clearFlags mask s).txShift = s.txShift := rfl
@[simp] theorem clearFlags_txBitsLeft (mask : Byte) (s : State) : (clearFlags mask s).txBitsLeft = s.txBitsLeft := rfl
@[simp] theorem clearFlags_tickArmed (mask : Byte) (s : State) : (clearFlags mask s).tickArmed = s.tickArmed := rfl
@[simp] theorem clearFlags_txAborted (mask : Byte) (s : State) : (clearFlags mask s).txAborted = (if maskClearsAborted mask then false else s.txAborted) := rfl
@[simp] theorem clearFlags_txEn (mask : Byte) (s : State) : (clearFlags mask s).txEn = s.txEn := rfl
@[simp] theorem clearFlags_txLevel (mask : Byte) (s : State) : (clearFlags mask s).txLevel = s.txLevel := rfl
@[simp] theorem clearFlags_txRing (mask : Byte) (s : State) : (clearFlags mask s).txRing = s.txRing := rfl
@[simp] theorem clearFlags_prevLevel (mask : Byte) (s : State) : (clearFlags mask s).prevLevel = s.prevLevel := rfl
@[simp] theorem clearFlags_refused (mask : Byte) (s : State) : (clearFlags mask s).refused = s.refused := rfl
@[simp] theorem clearFlags_resp (mask : Byte) (s : State) : (clearFlags mask s).resp = s.resp := rfl
@[simp] theorem clearFlags_inputs (mask : Byte) (s : State) : (clearFlags mask s).inputs = s.inputs := rfl

/-! ## countTimers -/

@[simp] theorem countTimers_cfg (s : State) : (countTimers s).cfg = s.cfg := rfl
@[simp] theorem countTimers_ls (s : State) : (countTimers s).ls = s.ls := rfl
@[simp] theorem countTimers_lastLevel (s : State) : (countTimers s).lastLevel = s.lastLevel := rfl
@[simp] theorem countTimers_idleArmed (s : State) : (countTimers s).idleArmed = s.idleArmed := rfl
@[simp] theorem countTimers_expData (s : State) : (countTimers s).expData = s.expData := rfl
@[simp] theorem countTimers_rxCursor (s : State) : (countTimers s).rxCursor = s.rxCursor := rfl
@[simp] theorem countTimers_rxByte (s : State) : (countTimers s).rxByte = s.rxByte := rfl
@[simp] theorem countTimers_hbArmed (s : State) : (countTimers s).hbArmed = s.hbArmed := rfl
@[simp] theorem countTimers_rxOverflow (s : State) : (countTimers s).rxOverflow = s.rxOverflow := rfl
@[simp] theorem countTimers_rxRing (s : State) : (countTimers s).rxRing = s.rxRing := rfl
@[simp] theorem countTimers_idleCnt (s : State) : (countTimers s).idleCnt = (if s.idleArmed then s.idleCnt - 1 else s.idleCnt) := rfl
@[simp] theorem countTimers_hbCnt (s : State) : (countTimers s).hbCnt = (if s.hbArmed then s.hbCnt - 1 else s.hbCnt) := rfl
@[simp] theorem countTimers_tickCnt (s : State) : (countTimers s).tickCnt = (if s.tickArmed then s.tickCnt - 1 else s.tickCnt) := rfl
@[simp] theorem countTimers_txActive (s : State) : (countTimers s).txActive = s.txActive := rfl
@[simp] theorem countTimers_txShift (s : State) : (countTimers s).txShift = s.txShift := rfl
@[simp] theorem countTimers_txBitsLeft (s : State) : (countTimers s).txBitsLeft = s.txBitsLeft := rfl
@[simp] theorem countTimers_tickArmed (s : State) : (countTimers s).tickArmed = s.tickArmed := rfl
@[simp] theorem countTimers_txAborted (s : State) : (countTimers s).txAborted = s.txAborted := rfl
@[simp] theorem countTimers_txEn (s : State) : (countTimers s).txEn = s.txEn := rfl
@[simp] theorem countTimers_txLevel (s : State) : (countTimers s).txLevel = s.txLevel := rfl
@[simp] theorem countTimers_txRing (s : State) : (countTimers s).txRing = s.txRing := rfl
@[simp] theorem countTimers_prevLevel (s : State) : (countTimers s).prevLevel = s.prevLevel := rfl
@[simp] theorem countTimers_refused (s : State) : (countTimers s).refused = s.refused := rfl
@[simp] theorem countTimers_resp (s : State) : (countTimers s).resp = s.resp := rfl
@[simp] theorem countTimers_inputs (s : State) : (countTimers s).inputs = s.inputs := rfl

/-! ## reloadTick and resetInput -/

@[simp] theorem reloadTick_cfg (s : State) : (reloadTick s).cfg = s.cfg := by unfold reloadTick; split <;> rfl
@[simp] theorem reloadTick_ls (s : State) : (reloadTick s).ls = s.ls := by unfold reloadTick; split <;> rfl
@[simp] theorem reloadTick_lastLevel (s : State) : (reloadTick s).lastLevel = s.lastLevel := by unfold reloadTick; split <;> rfl
@[simp] theorem reloadTick_idleArmed (s : State) : (reloadTick s).idleArmed = s.idleArmed := by unfold reloadTick; split <;> rfl
@[simp] theorem reloadTick_expData (s : State) : (reloadTick s).expData = s.expData := by unfold reloadTick; split <;> rfl
@[simp] theorem reloadTick_rxCursor (s : State) : (reloadTick s).rxCursor = s.rxCursor := by unfold reloadTick; split <;> rfl
@[simp] theorem reloadTick_rxByte (s : State) : (reloadTick s).rxByte = s.rxByte := by unfold reloadTick; split <;> rfl
@[simp] theorem reloadTick_hbArmed (s : State) : (reloadTick s).hbArmed = s.hbArmed := by unfold reloadTick; split <;> rfl
@[simp] theorem reloadTick_rxOverflow (s : State) : (reloadTick s).rxOverflow = s.rxOverflow := by unfold reloadTick; split <;> rfl
@[simp] theorem reloadTick_rxRing (s : State) : (reloadTick s).rxRing = s.rxRing := by unfold reloadTick; split <;> rfl
@[simp] theorem reloadTick_idleCnt (s : State) : (reloadTick s).idleCnt = s.idleCnt := by unfold reloadTick; split <;> rfl
@[simp] theorem reloadTick_hbCnt (s : State) : (reloadTick s).hbCnt = s.hbCnt := by unfold reloadTick; split <;> rfl
@[simp] theorem reloadTick_txActive (s : State) : (reloadTick s).txActive = s.txActive := by unfold reloadTick; split <;> rfl
@[simp] theorem reloadTick_txShift (s : State) : (reloadTick s).txShift = s.txShift := by unfold reloadTick; split <;> rfl
@[simp] theorem reloadTick_txBitsLeft (s : State) : (reloadTick s).txBitsLeft = s.txBitsLeft := by unfold reloadTick; split <;> rfl
@[simp] theorem reloadTick_tickArmed (s : State) : (reloadTick s).tickArmed = s.tickArmed := by unfold reloadTick; split <;> rfl
@[simp] theorem reloadTick_txAborted (s : State) : (reloadTick s).txAborted = s.txAborted := by unfold reloadTick; split <;> rfl
@[simp] theorem reloadTick_txEn (s : State) : (reloadTick s).txEn = s.txEn := by unfold reloadTick; split <;> rfl
@[simp] theorem reloadTick_txLevel (s : State) : (reloadTick s).txLevel = s.txLevel := by unfold reloadTick; split <;> rfl
@[simp] theorem reloadTick_txRing (s : State) : (reloadTick s).txRing = s.txRing := by unfold reloadTick; split <;> rfl
@[simp] theorem reloadTick_prevLevel (s : State) : (reloadTick s).prevLevel = s.prevLevel := by unfold reloadTick; split <;> rfl
@[simp] theorem reloadTick_refused (s : State) : (reloadTick s).refused = s.refused := by unfold reloadTick; split <;> rfl
@[simp] theorem reloadTick_resp (s : State) : (reloadTick s).resp = s.resp := by unfold reloadTick; split <;> rfl
@[simp] theorem reloadTick_inputs (s : State) : (reloadTick s).inputs = s.inputs := by unfold reloadTick; split <;> rfl
@[simp] theorem reloadTick_tickCnt (s : State) : (reloadTick s).tickCnt = if s.tickArmed then s.cfg.halfBit else s.tickCnt := by
  unfold reloadTick; split <;> rfl
@[simp] theorem resetInput_cfg (s : State) : (resetInput s).cfg = s.cfg := rfl
@[simp] theorem resetInput_ls (s : State) : (resetInput s).ls = (State.resetWith s.cfg).ls := rfl
@[simp] theorem resetInput_lastLevel (s : State) : (resetInput s).lastLevel = (State.resetWith s.cfg).lastLevel := rfl
@[simp] theorem resetInput_idleArmed (s : State) : (resetInput s).idleArmed = (State.resetWith s.cfg).idleArmed := rfl
@[simp] theorem resetInput_expData (s : State) : (resetInput s).expData = (State.resetWith s.cfg).expData := rfl
@[simp] theorem resetInput_rxCursor (s : State) : (resetInput s).rxCursor = (State.resetWith s.cfg).rxCursor := rfl
@[simp] theorem resetInput_rxByte (s : State) : (resetInput s).rxByte = (State.resetWith s.cfg).rxByte := rfl
@[simp] theorem resetInput_hbArmed (s : State) : (resetInput s).hbArmed = (State.resetWith s.cfg).hbArmed := rfl
@[simp] theorem resetInput_rxOverflow (s : State) : (resetInput s).rxOverflow = (State.resetWith s.cfg).rxOverflow := rfl
@[simp] theorem resetInput_rxRing (s : State) : (resetInput s).rxRing = (State.resetWith s.cfg).rxRing := rfl
@[simp] theorem resetInput_idleCnt (s : State) : (resetInput s).idleCnt = (State.resetWith s.cfg).idleCnt := rfl
@[simp] theorem resetInput_hbCnt (s : State) : (resetInput s).hbCnt = (State.resetWith s.cfg).hbCnt := rfl
@[simp] theorem resetInput_tickCnt (s : State) : (resetInput s).tickCnt = (State.resetWith s.cfg).tickCnt := rfl
@[simp] theorem resetInput_txActive (s : State) : (resetInput s).txActive = (State.resetWith s.cfg).txActive := rfl
@[simp] theorem resetInput_txShift (s : State) : (resetInput s).txShift = (State.resetWith s.cfg).txShift := rfl
@[simp] theorem resetInput_txBitsLeft (s : State) : (resetInput s).txBitsLeft = (State.resetWith s.cfg).txBitsLeft := rfl
@[simp] theorem resetInput_tickArmed (s : State) : (resetInput s).tickArmed = (State.resetWith s.cfg).tickArmed := rfl
@[simp] theorem resetInput_txAborted (s : State) : (resetInput s).txAborted = (State.resetWith s.cfg).txAborted := rfl
@[simp] theorem resetInput_txEn (s : State) : (resetInput s).txEn = (State.resetWith s.cfg).txEn := rfl
@[simp] theorem resetInput_txLevel (s : State) : (resetInput s).txLevel = (State.resetWith s.cfg).txLevel := rfl
@[simp] theorem resetInput_txRing (s : State) : (resetInput s).txRing = (State.resetWith s.cfg).txRing := rfl
@[simp] theorem resetInput_prevLevel (s : State) : (resetInput s).prevLevel = (State.resetWith s.cfg).prevLevel := rfl
@[simp] theorem resetInput_refused (s : State) : (resetInput s).refused = s.refused := rfl
@[simp] theorem resetInput_resp (s : State) : (resetInput s).resp = (State.resetWith s.cfg).resp := rfl
@[simp] theorem resetInput_inputs (s : State) : (resetInput s).inputs = s.inputs := rfl

end Sys2Proof.Machine
end

