-- ==== Sys2Proof/Laws/Ops.lean ====
section
/-! SUPPORT. One lemma per shared operation, saying everything it can do: chaining, bits, the drive path (R197) and the receiver's edge
path (R222, R223). -/

namespace Sys2Proof.Machine

/-! ## Chaining -/

@[simp] theorem andThen_next (s : State) (f : State → Result) : andThen (.next s) f = f s := rfl

@[simp] theorem andThen_fault (e : Fault) (f : State → Result) : andThen (.fault e) f = .fault e := rfl

@[simp] theorem andThen_refused (e : Refusal) (f : State → Result) : andThen (.refused e) f = .refused e := rfl

/-- A chain answers a next state exactly when both of its parts do. -/
theorem andThen_eq_next {r : Result} {f : State → Result} {t : State} :
    andThen r f = .next t ↔ ∃ s, r = .next s ∧ f s = .next t := by
  cases r <;> simp

theorem andThen_assoc (r : Result) (f g : State → Result) :
    andThen (andThen r f) g = andThen r fun s => andThen (f s) g := by
  cases r <;> rfl

/-- A run of the event layer in two parts. -/
theorem execAll_append (is js : List Instr) (s : State) : execAll (is ++ js) s = andThen (execAll is s) (execAll js) := by
  induction is generalizing s with
  | nil => rfl
  | cons i is ih =>
    simp only [List.cons_append, execAll]
    cases h : exec i s <;> simp [ih]

/-- A run of the cycle layer in two parts. -/
theorem cycles_append (cs ds : List CycleInput) (s : State) : cycles (cs ++ ds) s = andThen (cycles cs s) (cycles ds) := by
  induction cs generalizing s with
  | nil => rfl
  | cons c cs ih =>
    simp only [List.cons_append, cycles]
    cases h : cycle c s <;> simp [ih]

/-! ## Bits -/

/-- `setBit` writes one bit and leaves the others. -/
theorem getLsbD_setBit {w : Nat} (v : BitVec w) (k : Nat) (l : Bit) (i : Nat) :
    (setBit v k l).getLsbD i = if i = k ∧ i < w then l else v.getLsbD i := by
  have hone : (1#w <<< k).getLsbD i = decide (i = k ∧ i < w) := by
    rw [BitVec.getLsbD_shiftLeft, BitVec.getLsbD_one]
    by_cases hi : i < w <;> by_cases hk : i = k <;> by_cases hlt : i < k <;> simp [hi, hk, hlt] <;> omega
  unfold setBit
  split
  · rename_i hl
    rw [BitVec.getLsbD_or, hone, hl]
    by_cases h : i = k ∧ i < w
    · rw [if_pos h, decide_eq_true h, Bool.or_true]
    · rw [if_neg h, decide_eq_false h, Bool.or_false]
  · rw [BitVec.getLsbD_and, BitVec.getLsbD_not, hone]
    by_cases hi : i < w
    · by_cases hk : i = k <;> simp_all
    · rw [BitVec.getLsbD_of_ge v i (by omega)]
      simp [hi]

/-! ## The drive path (R197) -/

/-- `loadShift` keeps the bits it has, or takes the byte in the slot at `txGet`. -/
theorem loadShift_cases {s t : State} (h : loadShift s = .next t) :
    (s.txBitsLeft ≠ 0 ∧ t = s) ∨
    (s.txBitsLeft = 0 ∧ ∃ b, Memory.read s.txRing.buf s.txRing.get = some b ∧
      t = { s with txShift := b, txBitsLeft := 8, txRing := { s.txRing with get := (s.txRing.get + 1) % s.cfg.nTx } }) := by
  unfold loadShift at h
  split at h
  · rename_i h0
    split at h
    · rename_i b r hg
      obtain ⟨_, hb, rfl⟩ := ringGet_got hg
      cases h
      exact .inr ⟨h0, b, hb, rfl⟩
    · cases h
    · cases h
  · rename_i h0
    cases h
    exact .inl ⟨h0, rfl⟩

/-- `driveNext` is `loadShift` and then `driveBit`. -/
theorem driveNext_cases {s t : State} (h : driveNext s = .next t) :
    (s.txBitsLeft ≠ 0 ∧ t = driveBit s) ∨
    (s.txBitsLeft = 0 ∧ ∃ b, Memory.read s.txRing.buf s.txRing.get = some b ∧
      t = driveBit { s with
        txShift := b, txBitsLeft := 8, txRing := { s.txRing with get := (s.txRing.get + 1) % s.cfg.nTx } }) := by
  obtain ⟨u, hu, ht⟩ := andThen_eq_next.1 h
  cases ht
  rcases loadShift_cases hu with ⟨h0, rfl⟩ | ⟨h0, b, hb, rfl⟩
  · exact .inl ⟨h0, rfl⟩
  · exact .inr ⟨h0, b, hb, rfl⟩

/-- `driveNext` with bits left always goes on. -/
theorem driveNext_of_bits {s : State} (h : s.txBitsLeft ≠ 0) : driveNext s = .next (driveBit s) := by
  simp [driveNext, loadShift, h]

/-- `driveNext` with no bit left takes the oldest byte of a ring that holds one. -/
theorem driveNext_of_ring {s : State} (h0 : s.txBitsLeft = 0) (hr : RingOk s.cfg.nTx s.txRing)
    (he : ringEmpty s.txRing = false) :
    ∃ b, ringBytes s.cfg.nTx s.txRing = b :: ringBytes s.cfg.nTx { s.txRing with get := (s.txRing.get + 1) % s.cfg.nTx } ∧
      driveNext s = .next (driveBit { s with
        txShift := b, txBitsLeft := 8, txRing := { s.txRing with get := (s.txRing.get + 1) % s.cfg.nTx } }) := by
  obtain ⟨b, hg, _, _, hq⟩ := ringGet_spec hr he
  refine ⟨b, hq, ?_⟩
  simp [driveNext, loadShift, h0, hg]

/-! ## The receiver's edge path (R222, R223) -/

/-- `pushByte` queues the byte, or drops it and sets the sticky flag. -/
theorem pushByte_cases {s t : State} (h : pushByte s = .next t) :
    (ringFull s.cfg.nRx s.rxRing = true ∧ t = { s with rxOverflow := true }) ∨
    (ringFull s.cfg.nRx s.rxRing = false ∧ s.rxRing.put < s.cfg.nRx ∧
      t = { s with rxRing := { s.rxRing with
        buf := Memory.write s.rxRing.buf s.rxRing.put s.rxByte, put := (s.rxRing.put + 1) % s.cfg.nRx } }) := by
  unfold pushByte at h
  split at h
  · rename_i r hr
    obtain ⟨hf, hp, rfl⟩ := ringPut_stored hr
    cases h
    exact .inr ⟨hf, hp, rfl⟩
  · rename_i hr
    cases h
    refine .inl ⟨?_, rfl⟩
    rcases hf : ringFull s.cfg.nRx s.rxRing with _ | _
    · rw [ringPut, hf] at hr
      simp only [Bool.false_eq_true, if_false] at hr
      split at hr <;> cases hr
    · rfl
  · cases h

/-- `pushByte` into a full ring. -/
theorem pushByte_full {s : State} (hf : ringFull s.cfg.nRx s.rxRing = true) :
    pushByte s = .next { s with rxOverflow := true } := by
  simp [pushByte, ringPut_full hf]

/-- `pushByte` into a ring with room. -/
theorem pushByte_room {s : State} (hf : ringFull s.cfg.nRx s.rxRing = false) (hp : s.rxRing.put < s.cfg.nRx) :
    pushByte s = .next { s with rxRing := { s.rxRing with
      buf := Memory.write s.rxRing.buf s.rxRing.put s.rxByte, put := (s.rxRing.put + 1) % s.cfg.nRx } } := by
  simp [pushByte, ringPut, hf, hp]

/-- Whatever the ring holds, a push goes on when `put` names a slot. -/
theorem pushByte_next {s : State} (hp : s.rxRing.put < s.cfg.nRx) : ∃ t, pushByte s = .next t := by
  rcases hf : ringFull s.cfg.nRx s.rxRing with _ | _
  · exact ⟨_, pushByte_room hf hp⟩
  · exact ⟨_, pushByte_full hf⟩

/-- `rxEdge` on a boundary edge. -/
theorem rxEdge_boundary {s : State} (l : Bit) (h : s.expData = false) :
    rxEdge l s = .next { s with expData := true, hbArmed := false } := by
  simp [rxEdge, h, disarm]

/-- `rxEdge` on a data edge before the byte's last bit. -/
theorem rxEdge_data {s : State} (l : Bit) (h : s.expData = true) (hc : s.rxCursor ≠ 7) :
    rxEdge l s = .next { s with
      rxByte := setBit s.rxByte (7 - s.rxCursor.val) l, rxCursor := s.rxCursor + 1, expData := false, hbArmed := true,
      hbCnt := s.cfg.tHb } := by
  simp [rxEdge, h, advanceCursor, hc, arm, sampleBit]

/-- `rxEdge` on the data edge of the byte's last bit: a push, and then the cursor and the phase. -/
theorem rxEdge_last {s : State} (l : Bit) (h : s.expData = true) (hc : s.rxCursor = 7) :
    rxEdge l s = andThen (pushByte { s with rxByte := setBit s.rxByte 0 l }) fun u =>
      .next { u with rxCursor := 0, expData := false, hbArmed := true, hbCnt := u.cfg.tHb } := by
  have hs : sampleBit l s = { s with rxByte := setBit s.rxByte 0 l } := by simp [sampleBit, hc]
  have ha : advanceCursor (sampleBit l s) =
      andThen (pushByte { s with rxByte := setBit s.rxByte 0 l }) fun u => .next { u with rxCursor := 0 } := by
    unfold advanceCursor
    rw [if_pos (by rw [sampleBit_rxCursor, hc]), hs]
  unfold rxEdge
  rw [if_pos h, ha, andThen_assoc]
  rfl

/-- Everything `rxEdge` can do. -/
theorem rxEdge_cases {l : Bit} {s t : State} (h : rxEdge l s = .next t) :
    (s.expData = false ∧ t = { s with expData := true, hbArmed := false }) ∨
    (s.expData = true ∧ s.rxCursor ≠ 7 ∧
      t = { s with
        rxByte := setBit s.rxByte (7 - s.rxCursor.val) l, rxCursor := s.rxCursor + 1, expData := false, hbArmed := true,
        hbCnt := s.cfg.tHb }) ∨
    (s.expData = true ∧ s.rxCursor = 7 ∧ ringFull s.cfg.nRx s.rxRing = true ∧
      t = { s with
        rxByte := setBit s.rxByte 0 l, rxOverflow := true, rxCursor := 0, expData := false, hbArmed := true,
        hbCnt := s.cfg.tHb }) ∨
    (s.expData = true ∧ s.rxCursor = 7 ∧ ringFull s.cfg.nRx s.rxRing = false ∧ s.rxRing.put < s.cfg.nRx ∧
      t = { s with
        rxByte := setBit s.rxByte 0 l,
        rxRing := { s.rxRing with
          buf := Memory.write s.rxRing.buf s.rxRing.put (setBit s.rxByte 0 l), put := (s.rxRing.put + 1) % s.cfg.nRx },
        rxCursor := 0, expData := false, hbArmed := true, hbCnt := s.cfg.tHb }) := by
  rcases he : s.expData with _ | _
  · rw [rxEdge_boundary l he] at h
    cases h
    exact .inl ⟨rfl, rfl⟩
  · by_cases hc : s.rxCursor = 7
    · rw [rxEdge_last l he hc] at h
      obtain ⟨u, hu, ht⟩ := andThen_eq_next.1 h
      cases ht
      rcases pushByte_cases hu with ⟨hf, rfl⟩ | ⟨hf, hp, rfl⟩
      · exact .inr (.inr (.inl ⟨rfl, hc, hf, rfl⟩))
      · exact .inr (.inr (.inr ⟨rfl, hc, hf, hp, rfl⟩))
    · rw [rxEdge_data l he hc] at h
      cases h
      exact .inr (.inl ⟨rfl, hc, rfl⟩)

/-- Whatever the line does, the receiver's edge path goes on when `rxPut` names a slot. -/
theorem rxEdge_next (l : Bit) {s : State} (hp : s.rxRing.put < s.cfg.nRx) : ∃ t, rxEdge l s = .next t := by
  rcases he : s.expData with _ | _
  · exact ⟨_, rxEdge_boundary l he⟩
  · by_cases hc : s.rxCursor = 7
    · rw [rxEdge_last l he hc]
      obtain ⟨u, hu⟩ := pushByte_next (s := { s with rxByte := setBit s.rxByte 0 l }) hp
      rw [hu]
      exact ⟨_, rfl⟩
    · exact ⟨_, rxEdge_data l he hc⟩

end Sys2Proof.Machine
end

