-- ==== Sys2Proof/Laws/Exec.lean ====
section
/-! SUPPORT. One inversion lemma per instruction that can do more than one thing: if its meaning answers a next state, then one of
these cases holds. Invariants and frames follow by cases. -/

namespace Sys2Proof.Machine

/-- EDGE: the monitor's three writes, then `rxEdge_cases` on the result. -/
theorem execEdge_cases {l : Bit} {s t : State} (h : exec (.edge l) s = .next t) : rxEdge l (monitorEdge l s) = .next t := h

/-- IDLE_TO: to IDLE with the boundary reset, or to COLLISION. -/
theorem execIdleTo_cases {s t : State} (h : exec .idleTo s = .next t) :
    s.idleArmed = true ∧
      ((s.lastLevel = s.cfg.releasedLevel ∧
          t = { s with
            idleArmed := false, ls := .idle, rxCursor := 0, rxByte := 0x00#8, expData := true, hbArmed := false }) ∨
        (s.lastLevel ≠ s.cfg.releasedLevel ∧ t = { s with idleArmed := false, ls := .collision })) := by
  simp only [exec, execIdleTo] at h
  split at h
  · rename_i ha
    split at h
    · rename_i hl
      cases h
      exact ⟨ha, .inl ⟨hl, rfl⟩⟩
    · rename_i hl
      cases h
      exact ⟨ha, .inr ⟨hl, rfl⟩⟩
  · cases h

/-- HB_TO: the next edge is a data edge. -/
theorem execHbTo_cases {s t : State} (h : exec .hbTo s = .next t) :
    s.hbArmed = true ∧ t = { s with hbArmed := false, expData := true } := by
  simp only [exec, execHbTo] at h
  split at h
  · rename_i ha
    cases h
    exact ⟨ha, rfl⟩
  · cases h

/-- TICK: abort, end, or the next slot. -/
theorem execTick_cases {s t : State} (h : exec .tick s = .next t) :
    s.tickArmed = true ∧
      ((s.ls = .collision ∧ t = txAbort s) ∨
        (s.ls ≠ .collision ∧ s.txBitsLeft = 0 ∧ ringEmpty s.txRing = true ∧ t = txRelease s) ∨
        (s.ls ≠ .collision ∧ (s.txBitsLeft ≠ 0 ∨ ringEmpty s.txRing = false) ∧ driveNext s = .next t)) := by
  simp only [exec, execTick] at h
  split at h
  · rename_i ha
    split at h
    · rename_i hc
      cases h
      exact ⟨ha, .inl ⟨hc, rfl⟩⟩
    · rename_i hc
      split at h
      · rename_i he
        cases h
        exact ⟨ha, .inr (.inl ⟨hc, he.1, he.2, rfl⟩)⟩
      · rename_i he
        refine ⟨ha, .inr (.inr ⟨hc, ?_, h⟩)⟩
        by_cases h0 : s.txBitsLeft = 0
        · exact .inr (by simpa [h0] using he)
        · exact .inl h0
  · cases h

/-- START: the first slot of a queued message on an idle line. -/
theorem execStart_cases {s t : State} (h : exec .start s = .next t) :
    s.txActive = false ∧ ringEmpty s.txRing = false ∧ s.ls = .idle ∧
      driveNext (arm .tick { s with txActive := true }) = .next t := by
  simp only [exec, execStart] at h
  split at h
  · rename_i hr
    simp only [startReady, Bool.and_eq_true, Bool.not_eq_true', beq_iff_eq] at hr
    exact ⟨hr.1.1, hr.1.2, hr.2, h⟩
  · cases h

/-- `START`'s condition, spelt out. -/
theorem startReady_iff (s : State) :
    startReady s = true ↔ s.txActive = false ∧ ringEmpty s.txRing = false ∧ s.ls = .idle := by
  simp [startReady, and_assoc]

/-- ENQ: a response alone, or a queued frame. -/
theorem execEnq_cases {p : List Byte} {s t : State} (h : exec (.enq p) s = .next t) :
    (∃ c, c ≠ .ok ∧ c ≠ .refused ∧ t = raise c s) ∨
    (∃ hdr r, create s.cfg.srcId s.cfg.destId s.cfg.crcEn p = some hdr ∧ queueBlocked (serialize hdr).length s = false ∧
      ringPutAll s.cfg.nTx s.txRing (frameSymbols (serialize hdr)) = .stored r ∧
      t = respond .ok .none { s with txRing := r }) := by
  simp only [exec, execEnq] at h
  split at h
  · cases h
    exact .inl ⟨_, by decide, by decide, rfl⟩
  · rename_i hdr hc
    split at h
    · cases h
      exact .inl ⟨_, by decide, by decide, rfl⟩
    · rename_i hb
      split at h
      · rename_i r hr
        cases h
        exact .inr ⟨hdr, r, hc, by simpa using hb, hr, rfl⟩
      · cases h
        exact .inl ⟨_, by decide, by decide, rfl⟩
      · cases h

/-- RXGET: `EMPTY`, or the byte in the slot at `rxGet`. -/
theorem execRxget_cases {s t : State} (h : exec .rxget s = .next t) :
    (ringEmpty s.rxRing = true ∧ t = raise .empty s) ∨
    (ringEmpty s.rxRing = false ∧ ∃ b, Memory.read s.rxRing.buf s.rxRing.get = some b ∧
      t = respond .ok (.byte b) { s with rxRing := { s.rxRing with get := (s.rxRing.get + 1) % s.cfg.nRx } }) := by
  simp only [exec, execRxget] at h
  split at h
  · rename_i he
    cases h
    exact .inl ⟨he, rfl⟩
  · rename_i he
    split at h
    · rename_i b r hg
      obtain ⟨_, hb, rfl⟩ := ringGet_got hg
      cases h
      exact .inr ⟨by simpa using he, b, hb, rfl⟩
    · cases h
    · cases h

/-- CLRF: the clears with `OK`, or a refusal. -/
theorem execClrf_cases {m : Byte} {s t : State} (h : exec (.clrf m) s = .next t) :
    (clrfMaskOk m = true ∧ t = respond .ok .none (clearFlags m s)) ∨ (clrfMaskOk m = false ∧ t = refuse s) := by
  simp only [exec, execClrf] at h
  split at h
  · rename_i hm
    cases h
    exact .inl ⟨hm, rfl⟩
  · rename_i hm
    cases h
    exact .inr ⟨by simpa using hm, rfl⟩

/-- FRAME writes a response. -/
theorem execFrame_cases {a b : Byte} {ce : Bool} {p : List Byte} {s t : State} (h : exec (.frame a b ce p) s = .next t) :
    (p.length > 255 ∧ t = raise .payloadTooLarge s) ∨
    (p.length ≤ 255 ∧ ∃ hdr, create a b ce p = some hdr ∧ t = respond .ok (.bytes (serialize hdr)) s) := by
  simp only [exec, execFrame] at h
  split at h
  · rename_i hc
    cases h
    refine .inl ⟨?_, rfl⟩
    unfold create at hc
    split at hc
    · assumption
    · cases hc
  · rename_i hdr hc
    cases h
    refine .inr ⟨?_, hdr, hc, rfl⟩
    unfold create at hc
    split at hc
    · cases hc
    · rename_i hl
      simpa [maxPayload] using hl

/-- PARSE writes a response. -/
theorem execParse_cases {buf : List Byte} {s t : State} (h : exec (.parse buf) s = .next t) :
    (∃ e, parse buf = .error e ∧ t = raise e.code s) ∨ (∃ hdr, parse buf = .ok hdr ∧ t = respond .ok (.header hdr) s) := by
  simp only [exec, execParse] at h
  split at h
  · rename_i e he
    cases h
    exact .inl ⟨e, he, rfl⟩
  · rename_i hdr he
    cases h
    exact .inr ⟨hdr, he, rfl⟩

/-- CONFIRM writes a response, or refuses. -/
theorem execConfirm_cases {hdr : Header} {s t : State} (h : exec (.confirm hdr) s = .next t) :
    (hdr.wf = true ∧ confirmCrc hdr = true ∧ t = respond .ok .none s) ∨
    (hdr.wf = true ∧ confirmCrc hdr = false ∧ t = raise .crcMismatch s) ∨ (hdr.wf = false ∧ t = refuse s) := by
  simp only [exec, execConfirm] at h
  split at h
  · rename_i hw
    split at h
    · rename_i hc
      cases h
      exact .inl ⟨hw, hc, rfl⟩
    · rename_i hc
      cases h
      exact .inr (.inl ⟨hw, by simpa using hc, rfl⟩)
  · rename_i hw
    cases h
    exact .inr (.inr ⟨by simpa using hw, rfl⟩)

/-- An instruction whose meaning answers a next state was admitted (R100, R101, R194, R195, R224). -/
theorem admitted_of_next {i : Instr} {s t : State} (h : exec i s = .next t) : admitted i s = true := by
  cases i <;> try rfl
  · exact (execIdleTo_cases h).1
  · exact (execHbTo_cases h).1
  · exact (execTick_cases h).1
  · obtain ⟨h1, h2, h3, _⟩ := execStart_cases h
    exact (startReady_iff s).2 ⟨h1, h2, h3⟩

end Sys2Proof.Machine
end

