-- ==== Sys2Proof/Laws/Network.lean ====
section
/-! SUPPORT. What a cycle of several stations can do, and that a network's stations start together and keep equal half-bit periods
(R256). -/

namespace Sys2Proof.Machine

/-! ## The parameters are fixed for a run (R341) -/

/-- An action that leaves the parameters as they are wherever it goes on. -/
abbrev KeepsCfg (f : State → Result) : Prop := ∀ s t, f s = .next t → t.cfg = s.cfg

theorem KeepsCfg.andThen {f : State → Result} {g : State → State → Result} (hf : KeepsCfg f) (hg : ∀ u, KeepsCfg (g u)) :
    KeepsCfg fun s => andThen (f s) (g s) := by
  intro s t h
  obtain ⟨u, hu, ht⟩ := andThen_eq_next.1 h
  rw [hg s u t ht, hf s u hu]

theorem driveNext_cfg : KeepsCfg driveNext := by
  intro s t h
  rcases driveNext_cases h with ⟨_, rfl⟩ | ⟨_, b, _, rfl⟩ <;> rfl

theorem rxEdge_cfg (l : Bit) : KeepsCfg (rxEdge l) := by
  intro s t h
  rcases rxEdge_cases h with ⟨_, rfl⟩ | ⟨_, _, rfl⟩ | ⟨_, _, _, rfl⟩ | ⟨_, _, _, _, rfl⟩ <;> rfl

theorem exec_cfg (i : Instr) : KeepsCfg (exec i) := by
  intro s t h
  cases i with
  | edge l => exact (rxEdge_cfg l _ _ (execEdge_cases h)).trans rfl
  | idleTo => obtain ⟨_, ⟨_, rfl⟩ | ⟨_, rfl⟩⟩ := execIdleTo_cases h <;> rfl
  | hbTo => obtain ⟨_, rfl⟩ := execHbTo_cases h; rfl
  | tick =>
    obtain ⟨_, ⟨_, rfl⟩ | ⟨_, _, _, rfl⟩ | ⟨_, _, hd⟩⟩ := execTick_cases h
    · rfl
    · rfl
    · exact driveNext_cfg _ _ hd
  | start => obtain ⟨_, _, _, hd⟩ := execStart_cases h; exact (driveNext_cfg _ _ hd).trans rfl
  | enq p => obtain ⟨c, _, _, rfl⟩ | ⟨_, r, _, _, _, rfl⟩ := execEnq_cases h <;> rfl
  | rxget => obtain ⟨_, rfl⟩ | ⟨_, b, _, rfl⟩ := execRxget_cases h <;> rfl
  | status => cases h; rfl
  | clrf m => obtain ⟨_, rfl⟩ | ⟨_, rfl⟩ := execClrf_cases h <;> rfl
  | crc8 bs => cases h; rfl
  | encode v => cases h; rfl
  | frame a b ce p => obtain ⟨_, rfl⟩ | ⟨_, hdr, _, rfl⟩ := execFrame_cases h <;> rfl
  | parse buf => obtain ⟨e, _, rfl⟩ | ⟨hdr, _, rfl⟩ := execParse_cases h <;> rfl
  | confirm hdr => obtain ⟨_, _, rfl⟩ | ⟨_, _, rfl⟩ | ⟨_, rfl⟩ := execConfirm_cases h <;> rfl

theorem edgePhase_cfg (l : Bit) : KeepsCfg (edgePhase l) := by
  intro s t h
  unfold edgePhase at h
  split at h
  · cases h; rfl
  · exact (exec_cfg _ _ _ h).trans rfl

theorem idlePhase_cfg (d : Bool) : KeepsCfg (idlePhase d) := by
  intro s t h
  unfold idlePhase at h
  split at h
  · exact exec_cfg _ _ _ h
  · cases h; rfl

theorem hbPhase_cfg (d : Bool) : KeepsCfg (hbPhase d) := by
  intro s t h
  unfold hbPhase at h
  split at h
  · exact exec_cfg _ _ _ h
  · cases h; rfl

theorem tickPhase_cfg (d : Bool) : KeepsCfg (tickPhase d) := by
  intro s t h
  unfold tickPhase at h
  split at h
  · obtain ⟨u, hu, ht⟩ := andThen_eq_next.1 h
    cases ht
    rw [reloadTick_cfg, exec_cfg _ _ _ hu]
  · cases h; rfl

theorem execute_cfg (c : Command) : KeepsCfg (execute c) := by
  intro s t h
  unfold execute at h
  split at h
  · cases h; rfl
  · split at h
    · cases h; rfl
    · exact exec_cfg _ _ _ h

theorem hostPhase_cfg (cmd : Option Command) : KeepsCfg (hostPhase cmd) := by
  intro s t h
  cases cmd with
  | none => cases h; rfl
  | some c => exact execute_cfg c _ _ h

theorem startPhase_cfg : KeepsCfg startPhase := by
  intro s t h
  unfold startPhase at h
  split at h
  · exact exec_cfg _ _ _ h
  · cases h; rfl

theorem runPhases_cfg (l : Bit) (cmd : Option Command) : KeepsCfg (runPhases l cmd) :=
  KeepsCfg.andThen (edgePhase_cfg l) fun s =>
    KeepsCfg.andThen (idlePhase_cfg _) fun _ =>
    KeepsCfg.andThen (hbPhase_cfg _) fun _ =>
    KeepsCfg.andThen (tickPhase_cfg (due .tick s)) fun _ =>
    KeepsCfg.andThen (hostPhase_cfg cmd) fun _ => startPhase_cfg

/-- A clock cycle, a reset too, leaves the parameters as they are. -/
theorem cycle_cfg (c : CycleInput) : KeepsCfg (cycle c) := by
  intro s t h
  unfold cycle at h
  split at h
  · cases h; rfl
  · exact (runPhases_cfg _ _ _ _ h).trans rfl

/-! ## Several stations -/

/-- Stations that share a line: a cycle of all of them is a cycle of each, on the one line level. -/
theorem stationCycles_cases {line : Bit} {inputs : List StationInput} {ss ts : List State}
    (h : stationCycles line inputs ss = .next ts) :
    List.Forall₂ (fun s t => ∃ i, stationCycle line i s = .next t) ss ts := by
  induction ss generalizing inputs ts with
  | nil => cases h; exact .nil
  | cons s ss ih =>
    simp only [stationCycles] at h
    split at h
    · cases h
    · cases h
    · rename_i t ht
      split at h
      · cases h
      · cases h
      · rename_i ts' hts
        cases h
        exact .cons ⟨_, ht⟩ (ih hts)

/-- R256: a cycle leaves every station's parameters, the half-bit period among them, as they are. -/
theorem networkCycle_cfg {i : NetworkInput} {ss ts : List State} (h : networkCycle i ss = .next ts) :
    ts.map State.cfg = ss.map State.cfg := by
  have hc : List.Forall₂ (fun s t => t.cfg = s.cfg) ss ts :=
    (stationCycles_cases h).imp fun _ _ ⟨_, hi⟩ => cycle_cfg _ _ _ hi
  clear h
  induction hc with
  | nil => rfl
  | cons hs _ ih => rw [List.map_cons, List.map_cons, hs, ih]

theorem networkCycles_cfg {is : List NetworkInput} {ss ts : List State} (h : networkCycles is ss = .next ts) :
    ts.map State.cfg = ss.map State.cfg := by
  induction is generalizing ss with
  | nil => cases h; rfl
  | cons i is ih =>
    simp only [networkCycles] at h
    split at h
    · rename_i us hu
      rw [ih h, networkCycle_cfg hu]
    · cases h
    · cases h

/-- R256: at the start every station of a network is in its reset state, with the shared half-bit period. -/
theorem networkStart_reset {halfBit : Nat} {configs : List Config} {s : State} (hs : s ∈ networkStart halfBit configs) :
    s = State.resetWith s.cfg ∧ s.cfg.halfBit = halfBit := by
  obtain ⟨c, _, rfl⟩ := List.mem_map.1 hs
  exact ⟨rfl, rfl⟩

/-- R256, "Their half-bit periods are then exactly equal": at every point of a run of a network. -/
theorem networkRun_halfBit {halfBit : Nat} {configs : List Config} {is : List NetworkInput} {ts : List State}
    (h : networkRun halfBit configs is = .next ts) : ∀ t ∈ ts, t.cfg.halfBit = halfBit := by
  intro t ht
  have hm : t.cfg ∈ (networkStart halfBit configs).map State.cfg := by
    rw [← networkCycles_cfg h]
    exact List.mem_map_of_mem ht
  obtain ⟨s, hs, he⟩ := List.mem_map.1 hm
  rw [← he]
  exact (networkStart_reset hs).2

theorem stationCycles_reset (line : Bit) {inputs : List StationInput} {ss : List State} (hl : ss.length ≤ inputs.length)
    (hr : ∀ i ∈ inputs, i.rst = true) : stationCycles line inputs ss = .next (ss.map resetInput) := by
  induction ss generalizing inputs with
  | nil => rfl
  | cons s ss ih =>
    cases inputs with
    | nil => simp at hl
    | cons i is =>
      have hi : stationCycle line i s = .next (resetInput s) := by
        simp [stationCycle, cycle, hr i (by simp)]
      simp only [stationCycles, List.headD_cons, List.tail_cons, hi, List.map_cons]
      rw [ih (by simpa using hl) fun j hj => hr j (List.mem_cons_of_mem _ hj)]

/-- D46, "reset together": a cycle with `rst = 1` resets every station of a network, whatever its hosts present. -/
theorem networkCycle_reset (cmds : List (Option Command)) (ss : List State) :
    networkCycle ⟨true, cmds⟩ ss = .next (ss.map resetInput) := by
  refine stationCycles_reset _ (by simp [NetworkInput.forStations]) fun i hi => ?_
  obtain ⟨_, _, rfl⟩ := List.mem_map.1 hi
  rfl

end Sys2Proof.Machine
end

