-- ==== Sys2Proof/Laws/PerInstr.lean ====
section
/-! SUPPORT. Per instruction: the encoded word lies in its own row of the opcode table (spec/30_encoding.md R79's match and mask). -/

namespace Sys2Proof.Laws.RowMatch

/-- The mask of each row: R79, and spec/opcode_table.json's "mask". -/
def rowMask : Instr → Word16
  | .edge _ => 0xFEFF#16
  | .idleTo => 0xFFFF#16
  | .hbTo => 0xFFFF#16
  | .tick => 0xFFFF#16
  | .start => 0xFFFF#16
  | .enq _ => 0xFFFF#16
  | .rxget => 0xFFFF#16
  | .status => 0xFFFF#16
  | .clrf _ => 0xAFFF#16
  | .crc8 _ => 0xFFFF#16
  | .encode _ => 0x00FF#16
  | .frame _ _ _ _ => 0xFFFF#16
  | .parse _ => 0xFFFF#16
  | .confirm _ => 0xFFFF#16

/-- The match of each row: R79, and spec/opcode_table.json's "match". -/
def rowMatch : Instr → Word16
  | .edge _ => 0x0001#16
  | .idleTo => 0x0002#16
  | .hbTo => 0x0003#16
  | .tick => 0x0004#16
  | .start => 0x0005#16
  | .enq _ => 0x0010#16
  | .rxget => 0x0011#16
  | .status => 0x0012#16
  | .clrf _ => 0x0013#16
  | .crc8 _ => 0x0020#16
  | .encode _ => 0x0021#16
  | .frame _ _ _ _ => 0x0022#16
  | .parse _ => 0x0023#16
  | .confirm _ => 0x0024#16

/-- The word of a well-formed instruction matches its row under the row's mask. -/
def Statement (i : Instr) : Prop := i.wf = true → (Sys2Proof.encode i).word &&& rowMask i = rowMatch i

theorem edge (l : Bit) : Statement (.edge l) := fun _ => by cases l <;> rfl
theorem idleTo : Statement .idleTo := fun _ => rfl
theorem hbTo : Statement .hbTo := fun _ => rfl
theorem tick : Statement .tick := fun _ => rfl
theorem start : Statement .start := fun _ => rfl
theorem enq (payload : List Byte) : Statement (.enq payload) := fun _ =>
  show ((0#8 ++ 0x10#8 : BitVec (8 + 8)) : Word16) &&& 0xFFFF#16 = 0x0010#16 by decide
theorem rxget : Statement .rxget := fun _ => rfl
theorem status : Statement .status := fun _ => rfl

theorem clrf (mask : Byte) : Statement (.clrf mask) := by
  revert mask
  have h : ∀ m : Byte, clrfMaskOk m = true → ((m ++ 0x13#8 : BitVec (8 + 8)) : Word16) &&& 0xAFFF#16 = 0x0013#16 := by decide
  exact fun m => h m

theorem crc8 (bytes : List Byte) : Statement (.crc8 bytes) := fun _ =>
  show ((0#8 ++ 0x20#8 : BitVec (8 + 8)) : Word16) &&& 0xFFFF#16 = 0x0020#16 by decide

theorem encode (v : Byte) : Statement (.encode v) := by
  revert v
  have h : ∀ m : Byte, ((m ++ 0x21#8 : BitVec (8 + 8)) : Word16) &&& 0x00FF#16 = 0x0021#16 := by decide
  exact fun m _ => h m

theorem frame (src dest : Byte) (crcEnabled : Bool) (payload : List Byte) :
    Statement (.frame src dest crcEnabled payload) := fun _ =>
  show ((0#8 ++ 0x22#8 : BitVec (8 + 8)) : Word16) &&& 0xFFFF#16 = 0x0022#16 by decide
theorem parse (buffer : List Byte) : Statement (.parse buffer) := fun _ =>
  show ((0#8 ++ 0x23#8 : BitVec (8 + 8)) : Word16) &&& 0xFFFF#16 = 0x0023#16 by decide
theorem confirm (hdr : Header) : Statement (.confirm hdr) := fun _ =>
  show ((0#8 ++ 0x24#8 : BitVec (8 + 8)) : Word16) &&& 0xFFFF#16 = 0x0024#16 by decide

end Sys2Proof.Laws.RowMatch
end

