-- ==== Sys2Proof/Tests/Slice0.lean ====
section
/-! SUPPORT. The model's own tests: ill-formed terms refused, words written out from the encoding tables, one step of each
instruction on values of spec/95_test_vectors.md, and a witness for every statement with hypotheses. -/

namespace Sys2Proof.Tests

open Sys2Proof Sys2Proof.Machine

/-! ## Small states -/

/-- D45's parameters with the checksum off, which keeps the evaluations short. -/
def quiet : Config := { Config.testValues with crcEn := false }

/-- The smallest legal parameters (R7, R9). -/
def smallest : Config := ⟨1, 1, 3, true, 2, 2, 0#8, 0#8, false⟩

def base : State := State.resetWith quiet

/-- The line BUSY at level `l`, a data edge expected. -/
def busy (l : Bit) : State := { base with ls := .busy, lastLevel := l, idleArmed := true, idleCnt := 12, prevLevel := l }

/-- After a data edge to `l`: a boundary edge expected, the half-bit timer armed. -/
def sampled (l : Bit) : State := { busy l with expData := false, rxCursor := 1, hbArmed := true, hbCnt := 4 }

/-- A receive ring that holds `55 01`. -/
def holding : State := { base with rxRing := ⟨[(0, 0x55#8), (1, 0x01#8)], 2, 0⟩ }

/-- Two slots, one byte: a full receive ring, before the last bit of a byte. -/
def overflowing : State := { State.resetWith smallest with rxRing := ⟨[(0, 0x11#8)], 1, 0⟩, rxCursor := 7 }

/-- TX1's first symbol queued. -/
def queued : State := { base with txRing := ⟨[(0, 0x99#8), (1, 0x99#8)], 2, 0⟩ }

/-- A transmission with `n` bits left of `0xA0` and one byte queued. -/
def sending (n : Fin 9) : State :=
  { base with
    txActive := true, tickArmed := true, tickCnt := 4, txEn := true, txShift := 0xA0#8, txBitsLeft := n
    txRing := ⟨[(0, 0x99#8), (1, 0x99#8)], 2, 1⟩ }

/-- A transmission with nothing left to send. -/
def finishing : State := { sending 0 with txRing := ⟨[(0, 0x99#8), (1, 0x99#8)], 2, 2⟩ }

def colliding : State := { sending 3 with ls := .collision }

/-- After that transmission's abort, with the line IDLE again. -/
def aborted : State := { base with txRing := ⟨[(0, 0x99#8), (1, 0x99#8)], 2, 2⟩, txAborted := true }

/-- The cycle of an empty message's `ENQ` on a line held at the released level. -/
def enqCycle : CycleInput := drivenCycle true (some ⟨0x0010#16, .bytes []⟩)

/-- Enough slots for an empty message, at the shortest periods. -/
def fast : State := State.resetWith { smallest with nTx := 15 }

/-- The state after a result, where there is one. -/
def stateOf (r : Result) : Option State :=
  match r with
  | .next s => some s
  | .fault _ => none
  | .refused _ => none

/-- The response after one instruction. -/
def responseOf (r : Result) : Option Response := (stateOf r).bind State.resp

/-- W1's header and buffer. -/
def hiHeader : Header := ⟨0x55#8, 0x01#8, 0xAA#8, 0xBB#8, 2#8, true, [0x68#8, 0x69#8], 0x45#8⟩

def hiBytes : List Byte := [0x55#8, 0x01#8, 0xAA#8, 0xBB#8, 0x02#8, 0x01#8, 0x68#8, 0x69#8, 0x45#8]

/-! ## WellFormed: an ill-formed term for each check, and the decoder refuses it -/

theorem test_wf_clrf_mask : (Instr.clrf 0x20#8).wf = false ∧ decode (encode (.clrf 0x20#8)) = .error .reservedImm := by decide

theorem test_wf_confirm_length :
    (Instr.confirm { hiHeader with length := 3#8 }).wf = false ∧
      decode (encode (.confirm { hiHeader with length := 3#8 })) = .error .operandIllFormed := by decide

/-! ## Decoding: each word written out bit by bit, IMM8 then OP (R74, R78, R79) -/

theorem test_decode_edge :
    decode ⟨0b0000000000000001#16, .none⟩ = .ok (.edge false) ∧
      decode ⟨0b0000000100000001#16, .none⟩ = .ok (.edge true) := by decide

theorem test_decode_idle_to : decode ⟨0b0000000000000010#16, .none⟩ = .ok .idleTo := by decide

theorem test_decode_hb_to : decode ⟨0b0000000000000011#16, .none⟩ = .ok .hbTo := by decide

theorem test_decode_tick : decode ⟨0b0000000000000100#16, .none⟩ = .ok .tick := by decide

theorem test_decode_start : decode ⟨0b0000000000000101#16, .none⟩ = .ok .start := by decide

theorem test_decode_enq : decode ⟨0b0000000000010000#16, .bytes [0x68#8]⟩ = .ok (.enq [0x68#8]) := by decide

theorem test_decode_rxget : decode ⟨0b0000000000010001#16, .none⟩ = .ok .rxget := by decide

theorem test_decode_status : decode ⟨0b0000000000010010#16, .none⟩ = .ok .status := by decide

theorem test_decode_clrf : decode ⟨0b0101000000010011#16, .none⟩ = .ok (.clrf 0x50#8) := by decide

theorem test_decode_crc8 : decode ⟨0b0000000000100000#16, .bytes [0x41#8]⟩ = .ok (.crc8 [0x41#8]) := by decide

theorem test_decode_encode : decode ⟨0b0110100000100001#16, .none⟩ = .ok (.encode 0x68#8) := by decide

theorem test_decode_frame :
    decode ⟨0b0000000000100010#16, .frame 0x01#8 0x02#8 1#8 []⟩ = .ok (.frame 0x01#8 0x02#8 true []) := by decide

theorem test_decode_parse : decode ⟨0b0000000000100011#16, .bytes hiBytes⟩ = .ok (.parse hiBytes) := by decide

theorem test_decode_confirm : decode ⟨0b0000000000100100#16, .header hiHeader⟩ = .ok (.confirm hiHeader) := by decide

/-- HP6, HP7, HP10, HP11, HP12: the illegal words of the vectors. -/
theorem test_decode_illegal :
    decode ⟨0x0000#16, .none⟩ = .error .reservedOp ∧ decode ⟨0x0112#16, .none⟩ = .error .reservedImm ∧
      decode ⟨0x0012#16, .bytes []⟩ = .error .operandNotTaken ∧ decode ⟨0x0020#16, .none⟩ = .error .operandMissing ∧
      decode ⟨0x0025#16, .none⟩ = .error .reservedOp := by decide

/-! ## One step of each instruction -/

/-- LM1 step 1 and RX2 line 1. -/
theorem test_edge_samples :
    (stateOf (exec (.edge false) State.reset)).map (fun t => (t.ls, t.lastLevel, t.idleArmed, t.rxCursor, t.expData, t.hbArmed)) =
      some (.busy, false, true, 1, false, true) := by decide

/-- RX2 line 3: bit 6 of the byte is set. -/
theorem test_edge_second_bit :
    (stateOf (exec (.edge true) { busy false with rxCursor := 1 })).map (fun t => (t.rxByte, t.rxCursor)) =
      some (0x40#8, 2) := by decide

/-- RX6. -/
theorem test_idle_to_boundary :
    (stateOf (exec .idleTo { sampled true with rxCursor := 5, rxByte := 0xA8#8 })).map
        (fun t => (t.ls, t.rxCursor, t.rxByte, t.expData, t.hbArmed)) =
      some (.idle, 0, 0x00#8, true, false) := by decide

/-- LM1 step 6. -/
theorem test_idle_to_collision :
    (stateOf (exec .idleTo (busy false))).map (fun t => (t.ls, t.lastLevel, t.idleArmed)) =
      some (.collision, false, false) := by decide

/-- RX2 line 2. -/
theorem test_hb_to : (stateOf (exec .hbTo (sampled false))).map (fun t => (t.expData, t.hbArmed)) = some (true, false) := by decide

/-- TX5 with the line BUSY: `txShift[7]` goes out and one bit fewer is left. -/
theorem test_tick_drives :
    (stateOf (exec .tick { sending 3 with ls := .busy })).map (fun t => (t.txLevel, t.txBitsLeft, t.txShift)) =
      some (true, 2, 0x40#8) := by decide

/-- TX5. -/
theorem test_tick_aborts :
    (stateOf (exec .tick colliding)).map
        (fun t => ((t.txRing.get, t.txActive, t.txEn, t.txLevel), (t.tickArmed, t.txShift, t.txBitsLeft, t.txAborted))) =
      some ((2, false, false, true), (false, 0x00#8, 0, true)) := by decide

/-- TX3, cycle 1. -/
theorem test_start :
    (stateOf (exec .start queued)).map (fun t => (t.txLevel, t.txShift, t.txBitsLeft, t.txRing.get)) =
      some (true, 0x32#8, 7, 1) := by decide

/-- TX2: 8 bytes fit in 32 slots, by the 30 ring bytes of 15 frame bytes. -/
theorem test_enq_fits :
    (stateOf (exec (.enq (List.replicate 8 0x00#8)) base)).map (fun t => (t.resp, t.txRing.put, t.txRing.get)) =
      some (some ⟨.ok, .none⟩, 30, 0) := by decide

/-- TX2: 9 bytes do not. -/
theorem test_enq_too_long :
    responseOf (exec (.enq (List.replicate 9 0x00#8)) base) = some ⟨.queueFull, .none⟩ := by decide

/-- RX3. -/
theorem test_rxget :
    (stateOf (exec .rxget holding)).map (fun t => (t.resp, t.rxRing.get)) = some (some ⟨.ok, .byte 0x55#8⟩, 1) := by decide

theorem test_rxget_empty : responseOf (exec .rxget base) = some ⟨.empty, .none⟩ := by decide

/-- HP1. -/
theorem test_status_after_reset : responseOf (exec .status State.reset) = some ⟨.ok, .byte 0x80#8⟩ := by decide

/-- RS2: LAST_LEVEL, RX_AVAIL and TX_ABORTED. -/
theorem test_status_flags :
    responseOf (exec .status { holding with txAborted := true }) = some ⟨.ok, .byte 0xB0#8⟩ := by decide

/-- HP3. -/
theorem test_clrf :
    (stateOf (exec (.clrf 0x50#8) { base with txAborted := true, rxOverflow := true })).map
      (fun t => (t.txAborted, t.rxOverflow)) = some (false, false) := by decide

/-- HP2: the other flag stays. -/
theorem test_clrf_one :
    (stateOf (exec (.clrf 0x10#8) { base with txAborted := true, rxOverflow := true })).map
      (fun t => (t.txAborted, t.rxOverflow)) = some (false, true) := by decide

/-- C2. -/
theorem test_crc8_hi : responseOf (exec (.crc8 [0x68#8, 0x69#8]) base) = some ⟨.ok, .byte 0x45#8⟩ := by decide +kernel

/-- M2. -/
theorem test_encode : responseOf (exec (.encode 0x68#8) base) = some ⟨.ok, .word 0x966A#16⟩ := by decide

/-- F3b. -/
theorem test_frame :
    responseOf (exec (.frame 0x01#8 0x02#8 false []) base) =
      some ⟨.ok, .bytes [0x55#8, 0x01#8, 0x01#8, 0x02#8, 0x00#8, 0x00#8, 0xAA#8]⟩ := by decide

/-- F5. -/
theorem test_parse : responseOf (exec (.parse hiBytes) base) = some ⟨.ok, .header hiHeader⟩ := by decide

/-- F12. -/
theorem test_parse_six_bytes :
    responseOf (exec (.parse [0x55#8, 0x01#8, 0xAA#8, 0xBB#8, 0x00#8, 0x00#8]) base) = some ⟨.lengthMismatch, .none⟩ := by decide

/-- F6 and F7b. -/
theorem test_confirm :
    responseOf (exec (.confirm hiHeader) base) = some ⟨.ok, .none⟩ ∧
      responseOf (exec (.confirm { hiHeader with payload := [0x69#8, 0x69#8] }) base) = some ⟨.crcMismatch, .none⟩ := by
  decide +kernel

/-- HP8: an event word on the host port. -/
theorem test_event_word_on_host_port :
    responseOf (step { base with inputs := [.cycle (drivenCycle true (some ⟨0x0001#16, .none⟩))] }) =
      some ⟨.refused, .none⟩ := by decide

/-- CY2: the edge wins its tie with a due half-bit timer, so it is a boundary edge. -/
theorem test_edge_wins :
    (stateOf (step { sampled false with hbCnt := 1, inputs := [.cycle (drivenCycle true none)] })).map
      (fun t => (t.expData, t.hbArmed, t.rxCursor)) = some (true, false, 1) := by decide

/-- RS1: `rst` in mid-transmission, with a command that gets no response. -/
theorem test_reset_cycle :
    (stateOf (step { sending 3 with txAborted := true, inputs := [.cycle ⟨true, .loopback, some ⟨0x0012#16, .none⟩⟩] })).map
      (fun t => (t.txEn, t.txLevel, statusWord t, t.resp)) = some (false, true, 0x80#8, none) := by decide

/-- R190, R253(e), R66: an `ENQ` one cycle before the ending `TICK` is turned away, and one in its cycle, after it, is not (log entry
18). -/
theorem test_enq_around_ending_tick :
    ([2, 1].map fun n => responseOf (step { finishing with
      ls := .busy, idleArmed := true, idleCnt := 9, tickCnt := n
      inputs := [.cycle (drivenCycle true (some ⟨0x0010#16, .bytes []⟩))] })) =
      [some ⟨.queueFull, .none⟩, some ⟨.ok, .none⟩] := by decide

/-- R256: whatever half-bit periods the configurations hold, the stations of a network start with its own. -/
theorem test_network_equal_half_bits :
    (networkStart 4 [quiet, { quiet with halfBit := 3 }]).map (fun s => (s.cfg.halfBit, s.ls, s.txActive)) =
      [(4, .idle, false), (4, .idle, false)] := by decide

/-- RS2, cycle 1: both stations of a network queue a message and both start. -/
theorem test_network_simultaneous_start :
    (match networkRun 4 [quiet, quiet] [⟨false, [some ⟨0x0010#16, .bytes []⟩, some ⟨0x0010#16, .bytes []⟩]⟩] with
      | .next ts => ts.map fun t => (t.txActive, t.txEn, t.txBitsLeft)
      | .fault _ => []
      | .refused _ => []) = [(true, true, 7), (true, true, 7)] := by decide

/-- D46: one `rst` resets every station of a network. -/
theorem test_network_reset_together :
    (match networkCycle ⟨true, []⟩ [sending 3, sampled false] with
      | .next ts => ts.map fun t => (t.txActive, t.ls, statusWord t)
      | .fault _ => []
      | .refused _ => []) = [(false, .idle, 0x80#8), (false, .idle, 0x80#8)] := by decide

/-! ## Witnesses: the hypotheses of each statement, met together, at the boundaries of its clauses -/

theorem test_small_receiver_states_meet_the_invariants :
    Inv base ∧ Inv (busy true) ∧ Inv (sampled false) ∧ Inv holding ∧ Inv overflowing :=
  ⟨by decide, by decide, by decide, by decide, by decide⟩

theorem test_small_transmitter_states_meet_the_invariants :
    Inv queued ∧ Inv (sending 8) ∧ Inv finishing ∧ Inv colliding :=
  ⟨by decide, by decide, by decide, by decide⟩

theorem test_witness_DecodeEncodeRoundTrip :
    (Instr.clrf 0x50#8).wf = true ∧ (Instr.confirm hiHeader).wf = true ∧
      (Instr.enq (List.replicate 256 0#8)).wf = true := by decide +kernel

theorem test_witness_EncodeDecodeRoundTrip : decode ⟨0x5013#16, .none⟩ = .ok (.clrf 0x50#8) := by decide

theorem test_witness_WordsMatchTheirTableRow :
    0x0101#16 &&& 0xFEFF#16 = 0x0001#16 ∧ 0xFF21#16 &&& 0x00FF#16 = 0x0021#16 ∧ 0x5013#16 &&& 0xAFFF#16 = 0x0013#16 ∧
      decodeWord 0x5013#16 = .ok (.clrf 0x50#8) := by decide

theorem test_witness_StepRunsThePresentedWord :
    decode ⟨0x0004#16, .none⟩ = .ok .tick ∧ admitted .tick { sending 3 with inputs := [], resp := none } = true := by decide

theorem test_witness_UnadmittedEventHasNoStep :
    (base.idleArmed = false ∧ base.hbArmed = false ∧ base.tickArmed = false) ∧
      ((sending 3).txActive = true ∧ ringEmpty base.txRing = true ∧ (busy true).ls ≠ .idle) ∧
      decode ⟨0x0005#16, .none⟩ = .ok .start ∧ admitted .start { base with inputs := [], resp := none } = false := by decide

theorem test_witness_IllegalWordIsRefused :
    decode ⟨0x0000#16, .none⟩ = .error .reservedOp ∧ decode ⟨0x00FF#16, .none⟩ = .error .reservedOp := by decide

theorem test_witness_HostPortRunsCommandsOnly :
    (0x01#8 ≤ (0x0001#16).extractLsb' 0 8 ∧ (0x0001#16).extractLsb' 0 8 ≤ 0x05#8) ∧
      (0x01#8 ≤ (0x0005#16).extractLsb' 0 8 ∧ (0x0005#16).extractLsb' 0 8 ≤ 0x05#8) ∧
      decode ⟨0x0011#16, .none⟩ = .ok .rxget ∧ Instr.rxget.isEvent = false := by decide

theorem test_witness_ResetSatisfiesInvariants : smallest.ok ∧ Config.testValues.ok := by decide

theorem test_witness_StepKeepsInvariants :
    Inv { busy true with inputs := [.cycle (drivenCycle false none)] } ∧
      (stateOf (step { busy true with inputs := [.cycle (drivenCycle false none)] })).isSome = true := by decide

theorem test_witness_NothingStopsTheBlock : Inv { sending 3 with inputs := [.word ⟨0x0000#16, .none⟩] } := by decide

theorem test_witness_PendingMessageWaitsOnlyForTheLine :
    Inv { queued with ls := .collision } ∧
      (stateOf (cycle quietCycle { queued with ls := .collision })).isSome = true := by decide

theorem test_witness_StepKeepsParametersAndMark :
    (stateOf (step { base with refused := true })).isSome = true ∧ ({ base with refused := true } : State).refused = true := by
  decide

theorem test_witness_LineStateTransitionTable :
    I1 (busy true) ∧ (stateOf (exec .idleTo (busy true))).isSome = true ∧ (stateOf (exec .idleTo (busy false))).isSome = true ∧
      (I1 base ∧ base.ls ≠ .busy) ∧ (stateOf (exec (.edge false) base)).isSome = true ∧
      (stateOf (exec .tick colliding)).isSome = true := by decide

theorem test_witness_IdleTimeoutEndsAMessage :
    ((busy true).idleArmed = true ∧ (busy true).lastLevel = (busy true).cfg.releasedLevel) ∧
      ((busy false).idleArmed = true ∧ (busy false).lastLevel ≠ (busy false).cfg.releasedLevel) := by decide

theorem test_witness_BoundaryEdgeIsNotSampled : (sampled true).expData = false := by decide

theorem test_witness_DataEdgeSamplesOneBit :
    (base.expData = true ∧ base.rxCursor ≠ 7) ∧
      (({ base with rxCursor := 6 } : State).expData = true ∧ ({ base with rxCursor := 6 } : State).rxCursor ≠ 7) := by decide

theorem test_witness_LastDataEdgeDeliversTheByte :
    RingOk 16 ({ holding with rxCursor := 7 } : State).rxRing ∧ holding.expData = true ∧
      0 < ringFree 16 ({ holding with rxCursor := 7 } : State).rxRing := by decide

theorem test_witness_OverflowDropsTheNewestByte :
    overflowing.rxRing.put < overflowing.cfg.nRx ∧ overflowing.rxRing.get < overflowing.cfg.nRx ∧
      overflowing.expData = true ∧ overflowing.rxCursor = 7 ∧ ringFree overflowing.cfg.nRx overflowing.rxRing = 0 := by decide

theorem test_witness_HalfBitTimeoutExpectsData : (sampled true).hbArmed = true := by decide

theorem test_witness_DecodeSequenceDeliversTheBytes :
    [0x55#8, 0x68#8] ≠ [] ∧ RingOk holding.cfg.nRx holding.rxRing ∧ holding.expData = true ∧ holding.rxCursor = 0 ∧
      [0x55#8, 0x68#8].length ≤ ringFree holding.cfg.nRx holding.rxRing := by decide

theorem test_witness_RxgetReadsTheOldestByte :
    ringEmpty base.rxRing = true ∧ RingOk holding.cfg.nRx holding.rxRing ∧
      ringBytes holding.cfg.nRx holding.rxRing = [0x55#8, 0x01#8] := by decide

theorem test_witness_DrainReadsTheRingInOrder :
    RingOk holding.cfg.nRx holding.rxRing ∧ ringCount holding.cfg.nRx holding.rxRing < 3 := by decide

theorem test_witness_CrcLaws :
    [0x68#8, 0x69#8].length = [0x01#8, 0x00#8].length ∧ 0 < 8 ∧ 7 < 8 ∧ hiHeader.crcEnabled = true ∧
      hiHeader.payload = [] ++ 0x68#8 :: [0x69#8] ∧ confirmCrc hiHeader = true := by decide +kernel

theorem test_witness_FrameBuildsTheWireFrame :
    (List.replicate 255 0#8).length ≤ 255 ∧ 255 < (List.replicate 256 0#8).length := by decide +kernel

theorem test_witness_ParseChecksInOrder :
    (hiBytes.take 5).length < 6 ∧
      (6 ≤ (hiBytes.take 8).length ∧ (hiBytes.take 8).length < 6 + ((hiBytes.take 8).getD 4 0#8).toNat + 1) ∧
      (6 + ((hiBytes.set 5 0#8).getD 4 0#8).toNat + 1 ≤ (hiBytes.set 5 0#8).length ∧ (hiBytes.set 5 0#8).getD 5 0#8 = 0#8 ∧
        (hiBytes.set 5 0#8).getD (6 + ((hiBytes.set 5 0#8).getD 4 0#8).toNat) 0#8 ≠ 0xAA#8) ∧
      (6 + (hiBytes.getD 4 0#8).toNat + 1 ≤ hiBytes.length ∧ hiBytes.getD 5 0#8 ≠ 0#8) ∧
      6 + (((hiBytes.set 5 0#8).set 8 0xAA#8).getD 4 0#8).toNat + 1 ≤ ((hiBytes.set 5 0#8).set 8 0xAA#8).length ∧
      ((hiBytes.set 5 0#8).set 8 0xAA#8).getD (6 + (((hiBytes.set 5 0#8).set 8 0xAA#8).getD 4 0#8).toNat) 0#8 = 0xAA#8 := by
  decide

theorem test_witness_FramingRoundTrip : (List.replicate 255 0#8).length ≤ 255 ∧ hiHeader.wf = true := by decide +kernel

theorem test_witness_SentinelRule :
    (7 + ((hiBytes.set 5 0#8).getD 4 0#8).toNat ≤ (hiBytes.set 5 0#8).length ∧ (hiBytes.set 5 0#8).getD 5 0#8 = 0#8 ∧
        (hiBytes.set 5 0#8).getD (6 + ((hiBytes.set 5 0#8).getD 4 0#8).toNat) 0#8 ≠ 0xAA#8) ∧
      (hiBytes.take 8).length < 7 + ((hiBytes.take 8).getD 4 0#8).toNat := by decide

theorem test_witness_ParseChecksNothingElse :
    parse hiBytes = .ok hiHeader ∧
      parse (0x55#8 :: 0x01#8 :: 0xAA#8 :: 0xBB#8 :: [0x02#8, 0x01#8, 0x68#8, 0x69#8, 0x45#8]) = .ok hiHeader ∧
      (hiBytes.take 6).length = 6 := ⟨rfl, rfl, rfl⟩

theorem test_witness_ConfirmChecksTheTrailer :
    hiHeader.wf = true ∧ computeBitwise hiHeader.payload = hiHeader.crc8 ∧
      ({ hiHeader with crcEnabled := false } : Header).crcEnabled = false ∧ hiHeader.crcEnabled = true ∧
      computeBitwise [0x69#8, 0x69#8] ≠ 0x45#8 ∧ ({ hiHeader with length := 3#8 } : Header).payload.length ≠ 3 := by decide +kernel

theorem test_witness_EnqQueuesTheEncodedFrame :
    RingOk base.cfg.nTx base.txRing ∧ base.txActive = false ∧ ringEmpty base.txRing = true ∧
      (List.replicate 8 0#8).length ≤ 255 ∧ 2 * (7 + (List.replicate 8 0#8).length) ≤ base.cfg.nTx - 1 := by decide

theorem test_witness_EnqIsTurnedAway :
    255 < (List.replicate 256 0#8).length ∧ (List.replicate 255 0#8).length ≤ 255 ∧ (sending 3).txActive = true ∧
      ringEmpty queued.txRing = false ∧ ringFree base.cfg.nTx base.txRing < 2 * (7 + (List.replicate 9 0#8).length) := by decide +kernel

theorem test_witness_StartDrivesTheFirstSlot :
    (RingOk queued.cfg.nTx queued.txRing ∧ queued.txActive = false ∧ queued.ls = .idle ∧ queued.txBitsLeft = 0 ∧
        ringBytes queued.cfg.nTx queued.txRing = [0x99#8, 0x99#8]) ∧
      (({ queued with txBitsLeft := 8 } : State).txActive = false ∧ ({ queued with txBitsLeft := 8 } : State).ls = .idle ∧
        ringEmpty queued.txRing = false ∧ ({ queued with txBitsLeft := 8 } : State).txBitsLeft ≠ 0) := by decide

theorem test_witness_TickDrivesTheNextSlot :
    (RingOk (sending 1).cfg.nTx (sending 1).txRing ∧ (sending 1).tickArmed = true ∧ (sending 1).ls ≠ .collision ∧
        pendingSlots (sending 1) = [true, true, false, false, true, true, false, false, true]) ∧
      pendingSlots (sending 0) = [true, false, false, true, true, false, false, true] := by decide

theorem test_witness_TickAbortsOrEnds :
    (colliding.tickArmed = true ∧ colliding.ls = .collision) ∧
      (finishing.tickArmed = true ∧ finishing.ls ≠ .collision ∧ finishing.txBitsLeft = 0 ∧
        ringEmpty finishing.txRing = true) := by decide

theorem test_witness_TransmissionSendsTheFrame :
    Inv base ∧ base.txActive = false ∧ ringEmpty base.txRing = true ∧ base.ls = .idle ∧
      (List.replicate 8 0#8).length ≤ 255 ∧ 2 * (7 + (List.replicate 8 0#8).length) ≤ base.cfg.nTx - 1 := by decide

theorem test_witness_ResubmissionStartsAfresh :
    Inv colliding ∧ colliding.txActive = true ∧ colliding.ls = .collision ∧ Inv aborted ∧ aborted.ls = .idle ∧
      (stateOf (exec .tick colliding)).map (fun t => (t.cfg, t.txRing, t.txActive)) =
        some (aborted.cfg, aborted.txRing, aborted.txActive) ∧
      2 * (7 + [0x68#8].length) ≤ aborted.cfg.nTx - 1 :=
  ⟨by decide, by decide, by decide, by decide, by decide, by decide, by decide⟩

theorem test_witness_OnlyClrfClearsStickyFlags :
    0x50#8 &&& 0xAF#8 = 0#8 ∧ 0x20#8 &&& 0xAF#8 ≠ 0#8 ∧
      (stateOf (exec (.enq []) { base with txAborted := true, rxOverflow := true })).isSome = true := by decide

theorem test_witness_PureCommandsAreIdempotent :
    Instr.status.wf = true ∧ (Instr.crc8 []).wf = true ∧ (Instr.encode 0#8).wf = true ∧
      (Instr.frame 0#8 0#8 true []).wf = true ∧ (Instr.parse []).wf = true ∧ (Instr.confirm hiHeader).wf = true := by decide

theorem test_witness_HostCommandsWriteOnlyTheirOwn :
    (Instr.enq []).isEvent = false ∧ (Instr.enq []).wf = true ∧ (stateOf (exec (.enq []) base)).isSome = true ∧
      (Instr.clrf 0x10#8).isEvent = false ∧ (stateOf (exec (.clrf 0x10#8) base)).isSome = true ∧
      Instr.rxget.isEvent = false ∧ (stateOf (exec .rxget holding)).isSome = true := by decide

theorem test_witness_RingOwnership :
    (stateOf (exec (.edge true) { holding with rxCursor := 7 })).map (fun t => t.rxRing.put) = some 3 ∧
      (stateOf (exec .rxget holding)).map (fun t => t.rxRing.get) = some 1 ∧
      (stateOf (exec (.enq []) base)).map (fun t => t.txRing.put) = some 14 ∧
      (stateOf (exec .start queued)).map (fun t => t.txRing.get) = some 1 ∧
      (stateOf (exec .tick (sending 0))).map (fun t => t.txRing.get) = some 2 := by decide

theorem test_witness_ErrorCodesLeaveTheStateUnchanged :
    (Instr.tick.isEvent = true ∧ (stateOf (exec .tick (sending 3))).isSome = true) ∧
      (Instr.rxget.isEvent = false ∧ responseOf (exec .rxget base) = some ⟨.empty, .none⟩) := by decide

theorem test_witness_FrameOfEdge :
    (stateOf (exec (.edge true) overflowing)).map (fun t => t.rxOverflow) = some true ∧
      ({ holding with rxCursor := 7 } : State).expData = true ∧ ringFull holding.cfg.nRx holding.rxRing = false ∧
      (stateOf (exec (.edge true) { holding with rxCursor := 7 })).isSome = true := by decide

theorem test_witness_FrameOfEnq :
    responseOf (exec (.enq []) base) = some ⟨.ok, .none⟩ ∧
      responseOf (exec (.enq []) queued) = some ⟨.queueFull, .none⟩ := by decide

theorem test_witness_FrameOfTimerEvents :
    (stateOf (exec .idleTo (busy true))).isSome = true ∧ (stateOf (exec .hbTo (sampled true))).isSome = true ∧
      (stateOf (exec .tick colliding)).map (fun t => t.txAborted) = some true ∧
      (stateOf (exec .start queued)).isSome = true := by decide

theorem test_witness_OnlyEdgeAndEnqStore : (stateOf (exec .rxget holding)).isSome = true := by decide

theorem test_witness_EdgeWinsItsTie :
    Inv (sampled false) ∧ (drivenCycle true none).rst = false ∧
      lineIn (drivenCycle true none).line (sampled false) ≠ (sampled false).prevLevel ∧
      (busy false).expData = true ∧ (sampled false).expData = false := by decide

theorem test_witness_IdleTimeoutRunsItsFullPeriod :
    Inv (busy true) ∧ (busy true).idleArmed = true ∧
      (∀ c ∈ List.replicate 12 (drivenCycle true none), c.rst = false ∧ c.line = .driven (busy true).prevLevel) ∧
      (List.replicate 11 (drivenCycle true none)).length < (busy true).idleCnt ∧
      (List.replicate 12 (drivenCycle true none)).length = (busy true).idleCnt := by decide

theorem test_witness_CycleIsARunOfEvents :
    quietCycle.rst = false ∧ (stateOf (cycle quietCycle (sending 3))).isSome = true := by decide

theorem test_witness_FrameTiming :
    Inv fast ∧ fast.txActive = false ∧ ringEmpty fast.txRing = true ∧ fast.ls = .idle ∧
      2 * (7 + ([] : List Byte).length) ≤ fast.cfg.nTx - 1 ∧ lineIn (.driven true) fast = fast.prevLevel ∧
      (drivenCycle true none).rst = false ∧ (drivenCycle true none).cmd = none ∧ noCollision [enqCycle] fast = true := by
  decide

theorem test_witness_FrameTiming_end :
    (List.replicate 112 (drivenCycle true none)).length = 16 * (7 + ([] : List Byte).length) * fast.cfg.halfBit ∧
      (∀ c ∈ List.replicate 112 (drivenCycle true none), c.rst = false ∧ c.cmd = none) ∧
      noCollision (enqCycle :: List.replicate 112 (drivenCycle true none)) fast = true := by decide +kernel

theorem test_witness_LoopbackDeliversTheFrame :
    Inv base ∧ base.cfg.releasedLevel = true ∧ base.prevLevel = true ∧ base.txActive = false ∧
      ringEmpty base.txRing = true ∧ base.ls = .idle ∧ base.expData = true ∧ base.rxCursor = 0 ∧
      2 * (7 + (List.replicate 8 0#8).length) ≤ base.cfg.nTx - 1 ∧
      7 + (List.replicate 8 0#8).length ≤ ringFree base.cfg.nRx base.rxRing := by decide

theorem test_witness_LineResolution : (sending 3).txEn = true ∧ base.txEn = false := by decide

theorem test_witness_ClockGoesOnWithoutInputs : base.inputs = [] := by decide

end Sys2Proof.Tests
end

section
/-! SUPPORT. The proofs of family 00_scope.md: one step of the event layer runs its word (R4), and every command ends with a response
while no event gives one (R12, R300). -/

namespace Sys2Proof.Machine

/-! ## A word of the event layer (R4, R75) -/

/-- A step on a word takes it from the inputs, clears the last response and presents it. -/
theorem step_word (c : Command) (rest : List Input) (s : State) :
    step { s with inputs := .word c :: rest } = present c { s with inputs := rest, resp := none } := rfl

theorem present_admitted {c : Command} {i : Instr} {s : State} (hd : decode c = .ok i) (ha : admitted i s = true) :
    present c s = exec i s := by
  simp [present, hd, ha]

/-! ## Events give no response (R77) -/

theorem rxEdge_resp {l : Bit} {s t : State} (h : rxEdge l s = .next t) : t.resp = s.resp := by
  rcases rxEdge_cases h with ⟨_, rfl⟩ | ⟨_, _, rfl⟩ | ⟨_, _, _, rfl⟩ | ⟨_, _, _, _, rfl⟩ <;> rfl

theorem driveNext_resp {s t : State} (h : driveNext s = .next t) : t.resp = s.resp := by
  rcases driveNext_cases h with ⟨_, rfl⟩ | ⟨_, _, _, rfl⟩ <;> rfl

theorem exec_event_resp {i : Instr} {s t : State} (hi : i.isEvent = true) (h : exec i s = .next t) : t.resp = s.resp := by
  cases i with
  | edge l => exact (rxEdge_resp (execEdge_cases h)).trans (monitorEdge_resp l s)
  | idleTo => obtain ⟨_, ⟨_, rfl⟩ | ⟨_, rfl⟩⟩ := execIdleTo_cases h <;> rfl
  | hbTo => obtain ⟨_, rfl⟩ := execHbTo_cases h; rfl
  | tick =>
    obtain ⟨_, ⟨_, rfl⟩ | ⟨_, _, _, rfl⟩ | ⟨_, _, hd⟩⟩ := execTick_cases h
    · rfl
    · rfl
    · exact driveNext_resp hd
  | start => obtain ⟨_, _, _, hd⟩ := execStart_cases h; exact (driveNext_resp hd).trans (arm_resp _ _)
  | enq | rxget | status | clrf | crc8 | encode | frame | parse | confirm => cases hi

/-! ## Commands end with a response (R12, R300) -/

/-- `t` ends a command that began in `s`: it holds a response, and with a code other than `OK` that response and the mark of
`REFUSED` are all that differs from `s`. -/
def EndsCommand (s t : State) : Prop :=
  ∃ r : Response, t.resp = some r ∧
    (r.code ≠ .ok →
      t = { s with resp := some ⟨r.code, .none⟩, refused := s.refused || decide (r.code = .refused) })

/-! A command ends in one of three ways: `OK` after any change of state, an error raised, or the refusal of R82. -/

theorem endsCommand_ok (d : RespData) (s u : State) : EndsCommand s (respond .ok d u) :=
  ⟨⟨.ok, d⟩, rfl, fun h => absurd rfl h⟩

theorem endsCommand_raise {c : RespCode} (hc : c ≠ .refused) (s : State) : EndsCommand s (raise c s) :=
  ⟨⟨c, .none⟩, rfl, fun _ => by simp [raise, respond, hc]⟩

theorem endsCommand_refuse (s : State) : EndsCommand s (refuse s) :=
  ⟨⟨.refused, .none⟩, rfl, fun _ => by simp [refuse, respond]⟩

theorem ParseError.code_ne_refused (e : ParseError) : e.code ≠ .refused := by cases e <;> decide

theorem exec_command_ends {i : Instr} {s t : State} (hi : i.isEvent = false) (h : exec i s = .next t) : EndsCommand s t := by
  cases i with
  | edge | idleTo | hbTo | tick | start => cases hi
  | enq p =>
    obtain ⟨c, _, hc, rfl⟩ | ⟨_, r, _, _, _, rfl⟩ := execEnq_cases h
    · exact endsCommand_raise hc s
    · exact endsCommand_ok _ s _
  | rxget =>
    obtain ⟨_, rfl⟩ | ⟨_, b, _, rfl⟩ := execRxget_cases h
    · exact endsCommand_raise (by decide) s
    · exact endsCommand_ok _ s _
  | status => cases h; exact endsCommand_ok _ s s
  | clrf m =>
    obtain ⟨_, rfl⟩ | ⟨_, rfl⟩ := execClrf_cases h
    · exact endsCommand_ok _ s _
    · exact endsCommand_refuse s
  | crc8 bs => cases h; exact endsCommand_ok _ s s
  | encode v => cases h; exact endsCommand_ok _ s s
  | frame a b ce p =>
    obtain ⟨_, rfl⟩ | ⟨_, hdr, _, rfl⟩ := execFrame_cases h
    · exact endsCommand_raise (by decide) s
    · exact endsCommand_ok _ s s
  | parse buf =>
    obtain ⟨e, _, rfl⟩ | ⟨hdr, _, rfl⟩ := execParse_cases h
    · exact endsCommand_raise e.code_ne_refused s
    · exact endsCommand_ok _ s s
  | confirm hdr =>
    obtain ⟨_, _, rfl⟩ | ⟨_, _, rfl⟩ | ⟨_, rfl⟩ := execConfirm_cases h
    · exact endsCommand_ok _ s s
    · exact endsCommand_raise (by decide) s
    · exact endsCommand_refuse s

/-! ## The obligations -/

/-- Settles O49: the inversion lemma of each instruction ends an event without a response and a command in one of three ways. -/
theorem errorCodesLeaveTheStateUnchanged : Obligations.ErrorCodesLeaveTheStateUnchanged :=
  ⟨fun _ _ _ => exec_event_resp, fun _ _ _ => exec_command_ends⟩

/-- Settles O5: a step presents its word, and presenting a word whose instruction is admitted executes it. -/
theorem stepRunsThePresentedWord : Obligations.StepRunsThePresentedWord := by
  intro c i rest s hd ha
  rw [step_word, present_admitted hd ha]

end Sys2Proof.Machine
end

section
/-! SUPPORT. The proofs of family 10_state.md: the reset state has the invariants of R42 and R259, every step keeps them, and after a
clock cycle no message waits on an idle line. -/

namespace Sys2Proof.Machine

/-! ## The invariants in two parts: I1 to I6, and one range for each timer -/

/-- `Inv` without R259's counters: what holds between the events of a cycle too, where a counter that is due stands at 0. -/
structure EventInv (s : State) : Prop where
  cfg_ok : s.cfg.ok
  i1 : I1 s
  i2 : I2 s
  i3 : I3 s
  i4 : I4 s
  i5 : I5 s
  rxRing_ok : RingOk s.cfg.nRx s.rxRing
  txRing_ok : RingOk s.cfg.nTx s.txRing

/-- The armed flag of a timer (R252). -/
def Timer.armed (tm : Timer) (s : State) : Bool :=
  match tm with
  | .idle => s.idleArmed
  | .hb => s.hbArmed
  | .tick => s.tickArmed

/-- The counter of a timer (R252). -/
def Timer.count (tm : Timer) (s : State) : Nat :=
  match tm with
  | .idle => s.idleCnt
  | .hb => s.hbCnt
  | .tick => s.tickCnt

/-- The load value `D_t` of a timer (R252). -/
def Timer.load (tm : Timer) (c : Config) : Nat :=
  match tm with
  | .idle => c.tIdle
  | .hb => c.tHb
  | .tick => c.halfBit

/-- R259 for one timer. -/
def TimerOk (tm : Timer) (s : State) : Prop :=
  tm.armed s = true → 1 ≤ tm.count s ∧ tm.count s ≤ tm.load s.cfg

@[simp] theorem timerOk_idle (s : State) :
    TimerOk .idle s ↔ (s.idleArmed = true → 1 ≤ s.idleCnt ∧ s.idleCnt ≤ s.cfg.tIdle) := Iff.rfl

@[simp] theorem timerOk_hb (s : State) :
    TimerOk .hb s ↔ (s.hbArmed = true → 1 ≤ s.hbCnt ∧ s.hbCnt ≤ s.cfg.tHb) := Iff.rfl

@[simp] theorem timerOk_tick (s : State) :
    TimerOk .tick s ↔ (s.tickArmed = true → 1 ≤ s.tickCnt ∧ s.tickCnt ≤ s.cfg.halfBit) := Iff.rfl

theorem countersOk_iff (s : State) : CountersOk s ↔ ∀ tm, TimerOk tm s := by
  refine ⟨fun ⟨htick, hhb, hidle⟩ tm => ?_, fun h => ⟨h .tick, h .hb, h .idle⟩⟩
  cases tm with
  | idle => exact hidle
  | hb => exact hhb
  | tick => exact htick

theorem inv_iff (s : State) : Inv s ↔ EventInv s ∧ ∀ tm, TimerOk tm s := by
  rw [← countersOk_iff]
  constructor
  · rintro ⟨hc, h1, h2, h3, h4, h5, hr, ht, hk⟩
    exact ⟨⟨hc, h1, h2, h3, h4, h5, hr, ht⟩, hk⟩
  · rintro ⟨⟨hc, h1, h2, h3, h4, h5, hr, ht⟩, hk⟩
    exact ⟨hc, h1, h2, h3, h4, h5, hr, ht, hk⟩

theorem due_eq (tm : Timer) (s : State) : due tm s = (tm.armed s && tm.count s == 0) := by cases tm <;> rfl

theorem Timer.load_pos (tm : Timer) {c : Config} (hc : c.ok) : 1 ≤ tm.load c := by
  obtain ⟨⟨_, _, _, _⟩, _⟩ := hc
  cases tm <;> simp only [Timer.load] <;> omega

theorem timerOk_of_disarmed {tm : Timer} {s : State} (h : tm.armed s = false) : TimerOk tm s := by simp [TimerOk, h]

/-- A timer just loaded has its whole period to go. -/
theorem timerOk_of_loaded {tm : Timer} {s : State} (hc : s.cfg.ok) (h : tm.count s = tm.load s.cfg) : TimerOk tm s :=
  fun _ => ⟨h ▸ tm.load_pos hc, h.le⟩

/-- Step 1 of a cycle leaves every timer in its range or due. -/
theorem countTimers_timerOk_or_due {tm : Timer} {s : State} (h : TimerOk tm s) :
    due tm (countTimers s) = true ∨ TimerOk tm (countTimers s) := by
  have hcount : tm.armed s = true → tm.count (countTimers s) = tm.count s - 1 := by
    intro ha
    cases tm <;> exact if_pos ha
  have harmed : tm.armed (countTimers s) = tm.armed s := by cases tm <;> rfl
  rcases ha : tm.armed s with _ | _
  · exact .inr (timerOk_of_disarmed (harmed.trans ha))
  · obtain ⟨h1, h2⟩ := h ha
    rw [due_eq, harmed, ha, TimerOk, hcount ha, countTimers_cfg]
    simp only [Bool.true_and, beq_iff_eq]
    omega

/-! ## Reset (R43) -/

theorem inv_resetWith {c : Config} (hc : c.ok) : Inv (State.resetWith c) :=
  ⟨hc, nofun, nofun, rfl, fun _ => ⟨rfl, rfl, rfl⟩, nofun, ringOk_reset hc.2.1, ringOk_reset hc.2.2, nofun, nofun, nofun⟩

/-! ## The rings (I6) -/

theorem ringOk_put {n : Nat} {r : Ring} (h : RingOk n r) (hf : ringFull n r = false) (b : Byte) :
    RingOk n { r with buf := Memory.write r.buf r.put b, put := (r.put + 1) % n } := by
  obtain ⟨r', hp, hok, _⟩ := ringPut_spec h hf b
  obtain ⟨_, _, rfl⟩ := ringPut_stored hp
  exact hok

theorem ringOk_get {n : Nat} {r : Ring} (h : RingOk n r) (he : ringEmpty r = false) :
    RingOk n { r with get := (r.get + 1) % n } := by
  obtain ⟨_, _, hok, _⟩ := ringGet_spec h he
  exact hok

theorem ringOk_putAll {n : Nat} {bs : List Byte} {r r' : Ring} (h : RingOk n r) (hs : ringPutAll n r bs = .stored r') :
    RingOk n r' := by
  induction bs generalizing r with
  | nil => cases hs; exact h
  | cons b bs ih =>
    simp only [ringPutAll] at hs
    split at hs
    · rename_i r1 h1
      obtain ⟨hf, _, rfl⟩ := ringPut_stored h1
      exact ih (ringOk_put h hf b) hs
    · cases hs
    · cases hs

/-! ## What the parts of an instruction write, the rings' form kept -/

/-- The receiver's edge path turns the phase around, and arms the half-bit timer on a data edge, disarms it on a boundary edge. -/
theorem rxEdge_effect {l : Bit} {s t : State} (hr : RingOk s.cfg.nRx s.rxRing) (h : rxEdge l s = .next t) :
    ∃ v k ov r, RingOk s.cfg.nRx r ∧
      t = { s with
        rxByte := v, rxCursor := k, rxOverflow := ov, rxRing := r, expData := !s.expData, hbArmed := s.expData,
        hbCnt := if s.expData then s.cfg.tHb else s.hbCnt } := by
  rcases rxEdge_cases h with ⟨he, rfl⟩ | ⟨he, _, rfl⟩ | ⟨he, _, _, rfl⟩ | ⟨he, _, hf, _, rfl⟩ <;> rw [he]
  · exact ⟨_, _, _, _, hr, rfl⟩
  · exact ⟨_, _, _, _, hr, rfl⟩
  · exact ⟨_, _, _, _, hr, rfl⟩
  · exact ⟨_, _, _, _, ringOk_put hr hf _, rfl⟩

/-- The drive path puts the station on the line, and takes a byte from the ring only where one is needed. -/
theorem driveNext_effect {s t : State} (hr : RingOk s.cfg.nTx s.txRing)
    (hb : s.txBitsLeft ≠ 0 ∨ ringEmpty s.txRing = false) (h : driveNext s = .next t) :
    ∃ v k l r, RingOk s.cfg.nTx r ∧
      t = { s with txShift := v, txBitsLeft := k, txLevel := l, txRing := r, txEn := true } := by
  rcases driveNext_cases h with ⟨_, rfl⟩ | ⟨h0, b, _, rfl⟩
  · exact ⟨_, _, _, _, hr, rfl⟩
  · exact ⟨_, _, _, _, ringOk_get hr (hb.resolve_left (· h0)), rfl⟩

/-- What a host command can write: the rings, their form kept, the sticky flags, the mark and the response. -/
def CommandEffect (s t : State) : Prop :=
  ∃ rx tx ab ov rf rs, RingOk s.cfg.nRx rx ∧ RingOk s.cfg.nTx tx ∧
    t = { s with rxRing := rx, txRing := tx, txAborted := ab, rxOverflow := ov, refused := rf, resp := rs }

theorem EventInv.respond_effect {s : State} (h : EventInv s) (c : RespCode) (d : RespData) :
    CommandEffect s (respond c d s) :=
  ⟨_, _, _, _, _, _, h.rxRing_ok, h.txRing_ok, rfl⟩

theorem EventInv.refuse_effect {s : State} (h : EventInv s) : CommandEffect s (refuse s) :=
  ⟨_, _, _, _, _, _, h.rxRing_ok, h.txRing_ok, rfl⟩

theorem EventInv.command_effect {i : Instr} {s t : State} (h : EventInv s) (hi : i.isEvent = false)
    (he : exec i s = .next t) : CommandEffect s t := by
  cases i with
  | edge | idleTo | hbTo | tick | start => cases hi
  | enq p =>
    obtain ⟨c, _, _, rfl⟩ | ⟨_, r, _, _, hr, rfl⟩ := execEnq_cases he
    · exact h.respond_effect _ _
    · exact ⟨_, _, _, _, _, _, h.rxRing_ok, ringOk_putAll h.txRing_ok hr, rfl⟩
  | rxget =>
    obtain ⟨_, rfl⟩ | ⟨hne, b, _, rfl⟩ := execRxget_cases he
    · exact h.respond_effect _ _
    · exact ⟨_, _, _, _, _, _, ringOk_get h.rxRing_ok hne, h.txRing_ok, rfl⟩
  | clrf m =>
    obtain ⟨_, rfl⟩ | ⟨_, rfl⟩ := execClrf_cases he
    · exact ⟨_, _, _, _, _, _, h.rxRing_ok, h.txRing_ok, rfl⟩
    · exact h.refuse_effect
  | status | crc8 | encode => cases he; exact h.respond_effect _ _
  | frame a b ce p =>
    obtain ⟨_, rfl⟩ | ⟨_, hdr, _, rfl⟩ := execFrame_cases he <;> exact h.respond_effect _ _
  | parse buf =>
    obtain ⟨e, _, rfl⟩ | ⟨hdr, _, rfl⟩ := execParse_cases he <;> exact h.respond_effect _ _
  | confirm hdr =>
    obtain ⟨_, _, rfl⟩ | ⟨_, _, rfl⟩ | ⟨_, rfl⟩ := execConfirm_cases he
    · exact h.respond_effect _ _
    · exact h.respond_effect _ _
    · exact h.refuse_effect

/-! ## Every instruction keeps the invariants -/

/-- An action that keeps I1 to I6, and each timer's range on its own (in a cycle, one timer may be due and another not). -/
abbrev KeepsInv (f : State → Result) : Prop :=
  ∀ s t, EventInv s → f s = .next t → EventInv t ∧ ∀ tm, TimerOk tm s → TimerOk tm t

theorem keepsInv_next : KeepsInv .next := by
  intro s t h ht
  cases ht
  exact ⟨h, fun _ => id⟩

theorem CommandEffect.keeps {s t : State} (h : EventInv s) (he : CommandEffect s t) :
    EventInv t ∧ ∀ tm, TimerOk tm s → TimerOk tm t := by
  obtain ⟨rx, tx, ab, ov, rf, rs, hrx, htx, rfl⟩ := he
  refine ⟨{ h with rxRing_ok := hrx, txRing_ok := htx }, fun tm hk => ?_⟩
  cases tm <;> exact hk

/-- An edge restarts both timers of the line: the idle timer is armed, the half-bit timer armed or disarmed (R252). -/
theorem exec_edge_inv {l : Bit} {s t : State} (h : EventInv s) (he : exec (.edge l) s = .next t) :
    EventInv t ∧ TimerOk .idle t ∧ TimerOk .hb t ∧ (TimerOk .tick s → TimerOk .tick t) := by
  obtain ⟨v, k, ov, r, hr, rfl⟩ := rxEdge_effect (s := monitorEdge l s) h.rxRing_ok (execEdge_cases he)
  refine ⟨{ h with i1 := fun _ => rfl, i2 := fun hd => ?_, rxRing_ok := hr }, timerOk_of_loaded h.cfg_ok rfl, ?_, id⟩
  · exact congrArg not hd
  · rcases hd : s.expData with _ | _
    · exact timerOk_of_disarmed hd
    · exact timerOk_of_loaded h.cfg_ok (if_pos hd)

theorem exec_idleTo_keepsInv : KeepsInv (exec .idleTo) := by
  intro s t h he
  obtain ⟨_, ⟨_, rfl⟩ | ⟨_, rfl⟩⟩ := execIdleTo_cases he
  · refine ⟨{ h with i1 := nofun, i2 := nofun }, fun tm hk => ?_⟩
    cases tm with
    | idle | hb => exact timerOk_of_disarmed rfl
    | tick => exact hk
  · refine ⟨{ h with i1 := nofun }, fun tm hk => ?_⟩
    cases tm with
    | idle => exact timerOk_of_disarmed rfl
    | hb | tick => exact hk

theorem exec_hbTo_keepsInv : KeepsInv (exec .hbTo) := by
  intro s t h he
  obtain ⟨_, rfl⟩ := execHbTo_cases he
  refine ⟨{ h with i2 := nofun }, fun tm hk => ?_⟩
  cases tm with
  | hb => exact timerOk_of_disarmed rfl
  | idle | tick => exact hk

/-- A released transmitter is at rest, whatever its ring then holds. -/
theorem txRelease_inv {s : State} (h : EventInv s) :
    EventInv (txRelease s) ∧ ∀ tm, TimerOk tm s → TimerOk tm (txRelease s) := by
  refine ⟨{ h with i3 := rfl, i4 := fun _ => ⟨rfl, rfl, rfl⟩, i5 := nofun }, fun tm hk => ?_⟩
  cases tm with
  | tick => exact timerOk_of_disarmed rfl
  | idle | hb => exact hk

theorem txAbort_inv {s : State} (h : EventInv s) :
    EventInv (txAbort s) ∧ ∀ tm, TimerOk tm s → TimerOk tm (txAbort s) := by
  have hclear : EventInv { s with txRing := ringClear s.txRing } := { h with txRing_ok := ringOk_clear h.txRing_ok }
  refine ⟨{ (txRelease_inv hclear).1 with }, fun tm hk => ?_⟩
  cases tm with
  | tick => exact timerOk_of_disarmed (txAbort_tickArmed s)
  | idle | hb => simpa using hk

theorem exec_tick_keepsInv : KeepsInv (exec .tick) := by
  intro s t h he
  obtain ⟨ha, ⟨_, rfl⟩ | ⟨_, _, _, rfl⟩ | ⟨_, hb, hd⟩⟩ := execTick_cases he
  · exact txAbort_inv h
  · exact txRelease_inv h
  · have hactive : s.txActive = true := h.i3.symm.trans ha
    obtain ⟨v, k, l, r, hr, rfl⟩ := driveNext_effect h.txRing_ok hb hd
    refine ⟨{ h with i4 := ?_, i5 := fun _ => rfl, txRing_ok := hr }, fun tm hk => ?_⟩
    · exact fun hf => nomatch hactive.symm.trans hf
    · cases tm <;> exact hk

theorem exec_start_keepsInv : KeepsInv (exec .start) := by
  intro s t h he
  obtain ⟨_, hne, _, hd⟩ := execStart_cases he
  obtain ⟨v, k, l, r, hr, rfl⟩ :=
    driveNext_effect (s := arm .tick { s with txActive := true }) h.txRing_ok (.inr hne) hd
  refine ⟨{ h with i3 := rfl, i4 := nofun, i5 := fun _ => rfl, txRing_ok := hr }, fun tm hk => ?_⟩
  cases tm with
  | tick => exact timerOk_of_loaded h.cfg_ok rfl
  | idle | hb => exact hk

theorem exec_keepsInv (i : Instr) : KeepsInv (exec i) := by
  intro s t h he
  cases i with
  | edge l =>
    obtain ⟨hi, hidle, hhb, htick⟩ := exec_edge_inv h he
    refine ⟨hi, fun tm hk => ?_⟩
    cases tm with
    | idle => exact hidle
    | hb => exact hhb
    | tick => exact htick hk
  | idleTo => exact exec_idleTo_keepsInv s t h he
  | hbTo => exact exec_hbTo_keepsInv s t h he
  | tick => exact exec_tick_keepsInv s t h he
  | start => exact exec_start_keepsInv s t h he
  | enq | rxget | status | clrf | crc8 | encode | frame | parse | confirm => exact (h.command_effect rfl he).keeps h

/-- An instruction that runs only where a guard holds. -/
theorem keepsInv_execWhere (g : State → Bool) (i : Instr) : KeepsInv fun s => if g s then exec i s else .next s := by
  intro s t h he
  dsimp only at he
  split at he
  · exact exec_keepsInv i s t h he
  · exact keepsInv_next s t h he

/-! ## The event layer and the host port -/

theorem present_keepsInv (c : Command) : KeepsInv (present c) := by
  intro s t h he
  unfold present at he
  split at he
  · cases he
    exact h.refuse_effect.keeps h
  · exact keepsInv_execWhere (admitted _) _ s t h he

theorem execute_keepsInv (c : Command) : KeepsInv (execute c) := by
  intro s t h he
  unfold execute at he
  split at he
  · cases he
    exact h.refuse_effect.keeps h
  · split at he
    · cases he
      exact h.refuse_effect.keeps h
    · exact exec_keepsInv _ s t h he

/-! ## The phases of a cycle (R253): each timer that is due is restarted or stopped by its own phase -/

theorem edgePhase_keepsInv (l : Bit) : KeepsInv (edgePhase l) := by
  intro s t h he
  unfold edgePhase at he
  split at he
  · exact keepsInv_next s t h he
  · obtain ⟨hi, hk⟩ := exec_keepsInv _ { s with prevLevel := l } t { h with } he
    refine ⟨hi, fun tm hs => hk tm ?_⟩
    cases tm <;> exact hs

/-- After step 2 a timer of the line is in its range, or still due in a cycle without an edge. -/
theorem edgePhase_timerOk_or_due {l : Bit} {tm : Timer} (htm : tm ≠ .tick) {s t : State} (h : EventInv s)
    (hs : due tm s = true ∨ TimerOk tm s) (he : edgePhase l s = .next t) :
    (due tm s && l == s.prevLevel) = true ∨ TimerOk tm t := by
  by_cases hl : l = s.prevLevel
  · exact hs.imp (by simp [hl]) ((edgePhase_keepsInv l s t h he).2 tm)
  · rw [edgePhase, if_neg hl] at he
    obtain ⟨_, hidle, hhb, _⟩ := exec_edge_inv (s := { s with prevLevel := l }) { h with } he
    cases tm with
    | idle => exact .inr hidle
    | hb => exact .inr hhb
    | tick => exact absurd rfl htm

theorem idlePhase_keepsInv (d : Bool) : KeepsInv (idlePhase d) :=
  keepsInv_execWhere (fun s => d && s.idleArmed) .idleTo

theorem idlePhase_timerOk {d : Bool} {s t : State} (h : EventInv s) (hs : d = true ∨ TimerOk .idle s)
    (he : idlePhase d s = .next t) : TimerOk .idle t := by
  rcases hs with rfl | hs
  · rcases ha : s.idleArmed with _ | _
    · rw [idlePhase, ha] at he
      cases he
      exact timerOk_of_disarmed ha
    · rw [idlePhase, ha] at he
      obtain ⟨_, ⟨_, rfl⟩ | ⟨_, rfl⟩⟩ := execIdleTo_cases he <;> exact timerOk_of_disarmed rfl
  · exact (idlePhase_keepsInv d s t h he).2 .idle hs

theorem hbPhase_keepsInv (d : Bool) : KeepsInv (hbPhase d) :=
  keepsInv_execWhere (fun s => d && s.hbArmed) .hbTo

theorem hbPhase_timerOk {d : Bool} {s t : State} (h : EventInv s) (hs : d = true ∨ TimerOk .hb s)
    (he : hbPhase d s = .next t) : TimerOk .hb t := by
  rcases hs with rfl | hs
  · rcases ha : s.hbArmed with _ | _
    · rw [hbPhase, ha] at he
      cases he
      exact timerOk_of_disarmed ha
    · rw [hbPhase, ha] at he
      obtain ⟨_, rfl⟩ := execHbTo_cases he
      exact timerOk_of_disarmed rfl
  · exact (hbPhase_keepsInv d s t h he).2 .hb hs

/-- After the reload the next tick is a whole period away, or the timer was stopped. -/
theorem reloadTick_timerOk {s : State} (hc : s.cfg.ok) : TimerOk .tick (reloadTick s) := by
  rcases ha : s.tickArmed with _ | _
  · exact timerOk_of_disarmed ((reloadTick_tickArmed s).trans ha)
  · refine timerOk_of_loaded (by rwa [reloadTick_cfg]) ?_
    simp [Timer.count, Timer.load, ha]

theorem reloadTick_inv {s : State} (h : EventInv s) :
    EventInv (reloadTick s) ∧ ∀ tm, TimerOk tm s → TimerOk tm (reloadTick s) := by
  refine ⟨?_, fun tm hs => ?_⟩
  · unfold reloadTick
    split
    · exact { h with }
    · exact h
  · cases tm with
    | tick => exact reloadTick_timerOk h.cfg_ok
    | idle | hb => simpa using hs

theorem tickPhase_keepsInv (d : Bool) : KeepsInv (tickPhase d) := by
  intro s t h he
  unfold tickPhase at he
  split at he
  · obtain ⟨u, hu, ht⟩ := andThen_eq_next.1 he
    cases ht
    obtain ⟨hi, hk⟩ := exec_keepsInv _ s u h hu
    obtain ⟨hi', hk'⟩ := reloadTick_inv hi
    exact ⟨hi', fun tm hs => hk' tm (hk tm hs)⟩
  · exact keepsInv_next s t h he

theorem tickPhase_timerOk {d : Bool} {s t : State} (h : EventInv s) (hs : d = true ∨ TimerOk .tick s)
    (he : tickPhase d s = .next t) : TimerOk .tick t := by
  rcases hs with rfl | hs
  · rcases ha : s.tickArmed with _ | _
    · rw [tickPhase, ha] at he
      cases he
      exact timerOk_of_disarmed ha
    · rw [tickPhase, ha] at he
      obtain ⟨u, hu, ht⟩ := andThen_eq_next.1 he
      cases ht
      exact reloadTick_timerOk (exec_keepsInv _ s u h hu).1.cfg_ok
  · exact (tickPhase_keepsInv d s t h he).2 .tick hs

theorem hostPhase_keepsInv (cmd : Option Command) : KeepsInv (hostPhase cmd) := by
  cases cmd with
  | none => exact keepsInv_next
  | some c => exact execute_keepsInv c

theorem startPhase_keepsInv : KeepsInv startPhase := keepsInv_execWhere startReady .start

/-! ## The cycle -/

/-- Steps 2 to 7, one after the other. -/
theorem runPhases_cases {l : Bit} {cmd : Option Command} {s t : State} (h : runPhases l cmd s = .next t) :
    ∃ s1 s2 s3 s4 s5, edgePhase l s = .next s1 ∧ idlePhase (due .idle s && l == s.prevLevel) s1 = .next s2 ∧
      hbPhase (due .hb s && l == s.prevLevel) s2 = .next s3 ∧ tickPhase (due .tick s) s3 = .next s4 ∧
      hostPhase cmd s4 = .next s5 ∧ startPhase s5 = .next t := by
  simp only [runPhases, andThen_eq_next] at h
  obtain ⟨s1, h1, s2, h2, s3, h3, s4, h4, s5, h5, h6⟩ := h
  exact ⟨s1, s2, s3, s4, s5, h1, h2, h3, h4, h5, h6⟩

/-- Every timer's range is restored by its own phase where it was due, and kept by the phases before and after. -/
theorem runPhases_inv {l : Bit} {cmd : Option Command} {s t : State} (h : EventInv s)
    (hs : ∀ tm, due tm s = true ∨ TimerOk tm s) (he : runPhases l cmd s = .next t) : Inv t := by
  obtain ⟨s1, s2, s3, s4, s5, h1, h2, h3, h4, h5, h6⟩ := runPhases_cases he
  obtain ⟨i1, k1⟩ := edgePhase_keepsInv _ _ _ h h1
  obtain ⟨i2, k2⟩ := idlePhase_keepsInv _ _ _ i1 h2
  obtain ⟨i3, k3⟩ := hbPhase_keepsInv _ _ _ i2 h3
  obtain ⟨i4, k4⟩ := tickPhase_keepsInv _ _ _ i3 h4
  obtain ⟨i5, k5⟩ := hostPhase_keepsInv _ _ _ i4 h5
  obtain ⟨i6, k6⟩ := startPhase_keepsInv _ _ i5 h6
  have hidle : TimerOk .idle s2 := idlePhase_timerOk i1 (edgePhase_timerOk_or_due (by decide) h (hs _) h1) h2
  have hhb : TimerOk .hb s3 := hbPhase_timerOk i2 ((edgePhase_timerOk_or_due (by decide) h (hs _) h1).imp_right (k2 _)) h3
  have htick : TimerOk .tick s4 := tickPhase_timerOk i3 ((hs _).imp_right fun hk => k3 _ (k2 _ (k1 _ hk))) h4
  refine (inv_iff t).2 ⟨i6, fun tm => k6 tm (k5 tm ?_)⟩
  cases tm with
  | idle => exact k4 _ (k3 _ hidle)
  | hb => exact k4 _ hhb
  | tick => exact htick

/-- A clock cycle keeps the invariants: the reset state has them, and steps 2 to 7 restore what step 1 counts down. -/
theorem cycle_inv {c : CycleInput} {s t : State} (h : Inv s) (he : cycle c s = .next t) : Inv t := by
  unfold cycle at he
  split at he
  · cases he
    exact inv_resetWith h.1
  · obtain ⟨hi, hk⟩ := (inv_iff { s with resp := none }).1 h
    exact runPhases_inv (s := countTimers { s with resp := none }) { hi with } (fun tm => countTimers_timerOk_or_due (hk tm)) he

/-- A word of the event layer keeps the invariants, legal or not. -/
theorem present_inv {c : Command} {s t : State} (h : Inv s) (he : present c s = .next t) : Inv t := by
  obtain ⟨hi, hk⟩ := (inv_iff s).1 h
  obtain ⟨hi', hk'⟩ := present_keepsInv c s t hi he
  exact (inv_iff t).2 ⟨hi', fun tm => hk' tm (hk tm)⟩

theorem runInput_inv {i : Input} {s t : State} (h : Inv s) (he : runInput i s = .next t) : Inv t := by
  cases i with
  | word c => exact present_inv (s := { s with resp := none }) h he
  | cycle c => exact cycle_inv h he

/-! ## After step 7 (I7) -/

/-- A drive of the next slot leaves the transmission active. -/
theorem driveNext_txActive {s t : State} (h : driveNext s = .next t) : t.txActive = s.txActive := by
  rcases driveNext_cases h with ⟨_, rfl⟩ | ⟨_, _, _, rfl⟩ <;> rfl

/-- Step 7 starts a pending message on an idle line, so that none waits there. -/
theorem startPhase_i7 {s t : State} (h : startPhase s = .next t) : I7 t := by
  unfold startPhase at h
  split at h
  · obtain ⟨_, _, _, hd⟩ := execStart_cases h
    exact .inl (driveNext_txActive hd)
  · rename_i hr
    cases h
    rw [startReady_iff] at hr
    rcases ha : s.txActive with _ | _
    · rcases he : ringEmpty s.txRing with _ | _
      · exact .inr (.inr fun hl => hr ⟨ha, he, hl⟩)
      · exact .inr (.inl he)
    · exact .inl ha

theorem cycle_i7 {c : CycleInput} {s t : State} (h : cycle c s = .next t) : I7 t := by
  unfold cycle at h
  split at h
  · cases h
    exact .inr (.inl rfl)
  · obtain ⟨_, _, _, _, _, _, _, _, _, _, hstart⟩ := runPhases_cases h
    exact startPhase_i7 hstart

/-! ## The obligations -/

/-- Settles O12: a word runs at most one instruction, and a cycle is a reset or the seven steps of R253. -/
theorem stepKeepsInvariants : Obligations.StepKeepsInvariants := by
  intro s t h he
  unfold step runNext at he
  split at he
  · exact cycle_inv h he
  · rename_i i rest _
    exact runInput_inv (s := { s with inputs := rest }) h he

/-- Settles O14: a cycle ends with step 7, or with reset, which empties the ring. -/
theorem pendingMessageWaitsOnlyForTheLine : Obligations.PendingMessageWaitsOnlyForTheLine :=
  fun _ _ _ _ => cycle_i7

/-- Settles O9, field by field. -/
theorem resetLeavesItsValues : Obligations.ResetLeavesItsValues :=
  ⟨⟨Config.testValues, rfl⟩, resetInput_refused, fun c => by simp [State.resetWith, Ring.reset]⟩

/-- Settles O11, the test values being legal parameters. -/
theorem resetSatisfiesInvariants : Obligations.ResetSatisfiesInvariants :=
  ⟨inv_resetWith (by decide), fun _ => inv_resetWith⟩

end Sys2Proof.Machine
end

section
/-! SUPPORT. The proofs of family 20_memory.md: the six pure commands write their response alone (R64), and who moves which cursor and
stores in which ring (R50, R59). -/

namespace Sys2Proof.Machine

/-! ## The pure commands (R64): the response depends on the operand alone, or for `STATUS` on fields it does not write -/

theorem exec_frame_responds (src dest : Byte) (ce : Bool) (p : List Byte) :
    ∃ r : Response, ∀ s, exec (.frame src dest ce p) s = .next { s with resp := some r } := by
  rcases hc : create src dest ce p with _ | hdr
  · exact ⟨⟨.payloadTooLarge, .none⟩, fun s => by simp only [exec, execFrame, hc]; rfl⟩
  · exact ⟨⟨.ok, .bytes (serialize hdr)⟩, fun s => by simp only [exec, execFrame, hc]; rfl⟩

theorem exec_parse_responds (buf : List Byte) :
    ∃ r : Response, ∀ s, exec (.parse buf) s = .next { s with resp := some r } := by
  rcases hp : parse buf with e | hdr
  · exact ⟨⟨e.code, .none⟩, fun s => by simp only [exec, execParse, hp]; rfl⟩
  · exact ⟨⟨.ok, .header hdr⟩, fun s => by simp only [exec, execParse, hp]; rfl⟩

/-- Without `hw` the command is refused, which writes the mark too (R82). -/
theorem exec_confirm_responds {hdr : Header} (hw : hdr.wf = true) :
    ∃ r : Response, ∀ s, exec (.confirm hdr) s = .next { s with resp := some r } := by
  rcases hc : confirmCrc hdr with _ | _
  · exact ⟨⟨.crcMismatch, .none⟩, fun s => by simp only [exec, execConfirm, hw, hc]; rfl⟩
  · exact ⟨⟨.ok, .none⟩, fun s => by simp only [exec, execConfirm, hw, hc]; rfl⟩

/-- `i` answers in `s` with one response, whatever response the port held before, and writes nothing else. -/
def RespondsAlike (i : Instr) (s : State) : Prop :=
  ∃ r : Response, ∀ old, exec i { s with resp := old } = .next { s with resp := some r }

theorem respondsAlike_of_forall {i : Instr} (h : ∃ r : Response, ∀ s, exec i s = .next { s with resp := some r }) (s : State) :
    RespondsAlike i s := by
  obtain ⟨r, hr⟩ := h
  exact ⟨r, fun old => hr { s with resp := old }⟩

/-- Such an instruction run twice ends as it does run once. -/
theorem RespondsAlike.idempotent {i : Instr} {s : State} (h : RespondsAlike i s) :
    ∃ r : Response, exec i s = .next { s with resp := some r } ∧
      exec i { s with resp := some r } = .next { s with resp := some r } := by
  obtain ⟨r, hr⟩ := h
  exact ⟨r, hr s.resp, hr (some r)⟩

/-! ## What an instruction does to the rings (R50, R59) -/

/-- The five ways the rings of `s` become those of `t` under an instruction. -/
inductive RingEffect (s t : State) : Instr → Prop where
  /-- Neither ring changes. -/
  | keep {i : Instr} (hrx : t.rxRing = s.rxRing) (htx : t.txRing = s.txRing) : RingEffect s t i
  /-- A data edge pushes on the receive ring. -/
  | receive (l : Bit) (he : s.expData = true) (hget : t.rxRing.get = s.rxRing.get) (htx : t.txRing = s.txRing) :
      RingEffect s t (.edge l)
  /-- `RXGET` advances `rxGet`. -/
  | read (g : Nat) (hrx : t.rxRing = { s.rxRing with get := g }) (htx : t.txRing = s.txRing) : RingEffect s t .rxget
  /-- `ENQ` pushes on the transmit ring. -/
  | queue (p : List Byte) (hrx : t.rxRing = s.rxRing) (hget : t.txRing.get = s.txRing.get) : RingEffect s t (.enq p)
  /-- `START` and `TICK` advance `txGet`, or `TICK` clears the ring. -/
  | transmit {i : Instr} (hi : i = .start ∨ i = .tick) (g : Nat) (hrx : t.rxRing = s.rxRing)
      (htx : t.txRing = { s.txRing with get := g }) : RingEffect s t i

/-- The drive path moves no cursor but `txGet`. -/
theorem driveNext_rings {s t : State} (h : driveNext s = .next t) :
    t.rxRing = s.rxRing ∧ ∃ g, t.txRing = { s.txRing with get := g } := by
  rcases driveNext_cases h with ⟨_, rfl⟩ | ⟨_, _, _, rfl⟩
  · exact ⟨rfl, _, rfl⟩
  · exact ⟨rfl, _, rfl⟩

theorem exec_edge_ringEffect {l : Bit} {s t : State} (h : exec (.edge l) s = .next t) : RingEffect s t (.edge l) := by
  rcases rxEdge_cases (execEdge_cases h) with ⟨_, rfl⟩ | ⟨_, _, rfl⟩ | ⟨_, _, _, rfl⟩ | ⟨he, _, _, _, rfl⟩
  · exact .keep rfl rfl
  · exact .keep rfl rfl
  · exact .keep rfl rfl
  · exact .receive l he rfl rfl

theorem exec_tick_ringEffect {s t : State} (h : exec .tick s = .next t) : RingEffect s t .tick := by
  obtain ⟨_, ⟨_, rfl⟩ | ⟨_, _, _, rfl⟩ | ⟨_, _, hd⟩⟩ := execTick_cases h
  · exact .transmit (.inr rfl) s.txRing.put rfl rfl
  · exact .keep rfl rfl
  · obtain ⟨hrx, g, htx⟩ := driveNext_rings hd
    exact .transmit (.inr rfl) g hrx htx

theorem exec_start_ringEffect {s t : State} (h : exec .start s = .next t) : RingEffect s t .start := by
  obtain ⟨_, _, _, hd⟩ := execStart_cases h
  obtain ⟨hrx, g, htx⟩ := driveNext_rings hd
  exact .transmit (.inl rfl) g hrx htx

/-- Every instruction that answers a next state has one of the five effects on the rings. -/
theorem exec_ringEffect {i : Instr} {s t : State} (h : exec i s = .next t) : RingEffect s t i := by
  cases i with
  | edge l => exact exec_edge_ringEffect h
  | idleTo => obtain ⟨_, ⟨_, rfl⟩ | ⟨_, rfl⟩⟩ := execIdleTo_cases h <;> exact .keep rfl rfl
  | hbTo => obtain ⟨_, rfl⟩ := execHbTo_cases h; exact .keep rfl rfl
  | tick => exact exec_tick_ringEffect h
  | start => exact exec_start_ringEffect h
  | enq p =>
    obtain ⟨_, _, _, rfl⟩ | ⟨_, _, _, _, hr, rfl⟩ := execEnq_cases h
    · exact .keep rfl rfl
    · exact .queue p rfl (ringPutAll_stored_get hr)
  | rxget =>
    obtain ⟨_, rfl⟩ | ⟨_, _, _, rfl⟩ := execRxget_cases h
    · exact .keep rfl rfl
    · exact .read _ rfl rfl
  | clrf m => obtain ⟨_, rfl⟩ | ⟨_, rfl⟩ := execClrf_cases h <;> exact .keep rfl rfl
  | status | crc8 | encode => cases h; exact .keep rfl rfl
  | frame => obtain ⟨_, rfl⟩ | ⟨_, _, _, rfl⟩ := execFrame_cases h <;> exact .keep rfl rfl
  | parse => obtain ⟨_, _, rfl⟩ | ⟨_, _, rfl⟩ := execParse_cases h <;> exact .keep rfl rfl
  | confirm => obtain ⟨_, _, rfl⟩ | ⟨_, _, rfl⟩ | ⟨_, rfl⟩ := execConfirm_cases h <;> exact .keep rfl rfl

/-! ## The obligations -/

/-- Settles O46: no pure command reads the response it is about to replace. -/
theorem pureCommandsAreIdempotent : Obligations.PureCommandsAreIdempotent := by
  intro i s hwf hi
  refine RespondsAlike.idempotent ?_
  rcases hi with rfl | ⟨bs, rfl⟩ | ⟨v, rfl⟩ | ⟨src, dest, ce, p, rfl⟩ | ⟨buf, rfl⟩ | ⟨hdr, rfl⟩
  · exact ⟨⟨.ok, .byte (statusWord s)⟩, fun _ => rfl⟩
  · exact ⟨⟨.ok, .byte (crc8 bs)⟩, fun _ => rfl⟩
  · exact ⟨⟨.ok, .word (encodeByte v)⟩, fun _ => rfl⟩
  · exact respondsAlike_of_forall (exec_frame_responds src dest ce p) s
  · exact respondsAlike_of_forall (exec_parse_responds buf) s
  · exact respondsAlike_of_forall (exec_confirm_responds hwf) s

/-- Settles O48: each of the five effects moves the cursors of its own instruction and no other. -/
theorem ringOwnership : Obligations.RingOwnership := by
  intro i s t h
  cases exec_ringEffect h with
  | keep hrx htx => simp [hrx, htx]
  | receive l he hget htx => simp [he, hget, htx]
  | read g hrx htx => simp [hrx, htx]
  | queue p hrx hget => simp [hrx, hget]
  | transmit hi g hrx htx => simp [hi, hrx, htx]

/-- Settles O53: by the ownership of the slots' contents, O48's first and third clause. -/
theorem onlyEdgeAndEnqStore : Obligations.OnlyEdgeAndEnqStore := by
  intro i s t hedge henq h a
  obtain ⟨hrx, _, htx, _⟩ := ringOwnership i s t h
  have hrxBuf : t.rxRing.buf = s.rxRing.buf := by
    by_contra hne
    obtain ⟨l, hl, _⟩ := hrx (.inr hne)
    exact hedge l hl
  have htxBuf : t.txRing.buf = s.txRing.buf := by
    by_contra hne
    obtain ⟨p, hp⟩ := htx (.inr hne)
    exact henq p hp
  rw [hrxBuf, htxBuf]
  exact ⟨rfl, rfl⟩

end Sys2Proof.Machine
end

section
/-! SUPPORT. The proofs of family 30_encoding.md: a command decodes exactly where it encodes a well-formed instruction (R78 to R81),
an illegal one is refused (R82), and `DRAIN` empties the receive ring (R85). -/

namespace Sys2Proof

/-! ## The fields of a legal word (R80) -/

/-- An operation with the operand of zeros (log entry 11): an instruction whose tables hold the operation's row of R78. -/
def Op.withZeros : Op → Instr
  | .edge l => .edge l
  | .idleTo => .idleTo
  | .hbTo => .hbTo
  | .tick => .tick
  | .start => .start
  | .enq => .enq []
  | .rxget => .rxget
  | .status => .status
  | .clrf mask => .clrf mask
  | .crc8 => .crc8 []
  | .encode v => .encode v
  | .frame => .frame 0#8 0#8 false []
  | .parse => .parse []
  | .confirm => .confirm ⟨0#8, 0#8, 0#8, 0#8, 0#8, false, [], 0#8⟩

/-- `op` and `imm` are the fields of the operation `o`'s word, and R80 allows its immediate. -/
def FieldsOf (op imm : Byte) (o : Op) : Prop :=
  op = opcode o.withZeros ∧ imm = immediate o.withZeros ∧ o.withZeros.wf = true

/-- R79, bits 7:1 of `EDGE`'s immediate: where they are 0, the immediate is that of one of the two levels. -/
theorem edge_immediate_of_reserved_zero :
    ∀ imm : Byte, imm.extractLsb' 1 7 = 0#7 → imm = immediate (.edge (imm.getLsbD 0)) := by decide

/-- One row of R80's `case op of` that takes no immediate, and the rows below it. -/
theorem zeroImmRow_fieldsOf {op imm : Byte} {o : Op} {below : Except Illegal Op} (o' : Op)
    (himm : immediate o'.withZeros = 0#8) (hwf : o'.withZeros.wf = true)
    (h : (if op = opcode o'.withZeros then needsZeroImm imm o' else below) = .ok o)
    (hbelow : below = .ok o → FieldsOf op imm o) : FieldsOf op imm o := by
  obtain ⟨hop, h⟩ | ⟨-, h⟩ := ite_eq_iff.1 h
  · obtain ⟨h0, h⟩ | ⟨-, h⟩ := ite_eq_iff.1 h
    · cases h; exact ⟨hop, h0.trans himm.symm, hwf⟩
    · cases h
  · exact hbelow h

/-- R80's `case op of`, read backwards: each row is reached from its own fields. -/
theorem decodeFields_fieldsOf {op imm : Byte} {o : Op} (h : decodeFields op imm = .ok o) : FieldsOf op imm o := by
  unfold decodeFields at h
  obtain ⟨hop, h⟩ | ⟨-, h⟩ := ite_eq_iff.1 h
  · obtain ⟨hreserved, h⟩ | ⟨-, h⟩ := ite_eq_iff.1 h
    · cases h; exact ⟨hop, edge_immediate_of_reserved_zero imm hreserved, rfl⟩
    · cases h
  refine zeroImmRow_fieldsOf .idleTo rfl rfl h fun h => ?_
  refine zeroImmRow_fieldsOf .hbTo rfl rfl h fun h => ?_
  refine zeroImmRow_fieldsOf .tick rfl rfl h fun h => ?_
  refine zeroImmRow_fieldsOf .start rfl rfl h fun h => ?_
  refine zeroImmRow_fieldsOf .enq rfl rfl h fun h => ?_
  refine zeroImmRow_fieldsOf .rxget rfl rfl h fun h => ?_
  refine zeroImmRow_fieldsOf .status rfl rfl h fun h => ?_
  obtain ⟨hop, h⟩ | ⟨-, h⟩ := ite_eq_iff.1 h
  · obtain ⟨hmask, h⟩ | ⟨-, h⟩ := ite_eq_iff.1 h
    · cases h; exact ⟨hop, rfl, hmask⟩
    · cases h
  refine zeroImmRow_fieldsOf .crc8 rfl rfl h fun h => ?_
  obtain ⟨hop, h⟩ | ⟨-, h⟩ := ite_eq_iff.1 h
  · cases h; exact ⟨hop, rfl, rfl⟩
  refine zeroImmRow_fieldsOf .frame rfl rfl h fun h => ?_
  refine zeroImmRow_fieldsOf .parse rfl rfl h fun h => ?_
  refine zeroImmRow_fieldsOf .confirm rfl rfl h fun h => ?_
  cases h

/-- A word that decodes is the word of its operation, with an immediate R80 allows. -/
theorem decodeWord_ok {w : Word16} {o : Op} (h : decodeWord w = .ok o) :
    w = (encode o.withZeros).word ∧ o.withZeros.wf = true := by
  obtain ⟨hop, himm, hwf⟩ := decodeFields_fieldsOf h
  exact ⟨word_ext (by rw [opOf_encode, hop]) (by rw [immOf_encode, himm]), hwf⟩

/-! ## The operand of a legal command (R76, R81) -/

theorem takesNone_ok {o : Operand} {i j : Instr} (h : takesNone o i = .ok j) : o = .none ∧ j = i := by
  cases o <;> cases h
  exact ⟨rfl, rfl⟩

theorem takesBytes_ok {o : Operand} {f : List Byte → Instr} {j : Instr} (h : takesBytes o f = .ok j) :
    ∃ bs, o = .bytes bs ∧ j = f bs := by
  cases o <;> cases h
  exact ⟨_, rfl, rfl⟩

theorem takesFrame_ok {o : Operand} {j : Instr} (h : takesFrame o = .ok j) :
    ∃ src dest ce payload, o = .frame src dest (if ce then 1#8 else 0#8) payload ∧ j = .frame src dest ce payload := by
  cases o with
  | none | bytes | header => cases h
  | frame src dest b payload =>
    simp only [takesFrame] at h
    split_ifs at h with h0 h1
    · cases h; exact ⟨src, dest, false, payload, by simp [h0], rfl⟩
    · cases h; exact ⟨src, dest, true, payload, by simp [h1], rfl⟩

theorem takesHeader_ok {o : Operand} {j : Instr} (h : takesHeader o = .ok j) :
    ∃ hdr, o = .header hdr ∧ hdr.wf = true ∧ j = .confirm hdr := by
  cases o with
  | none | bytes | frame => cases h
  | header hdr =>
    simp only [takesHeader] at h
    split_ifs at h with hw
    cases h
    exact ⟨hdr, rfl, hw, rfl⟩

/-- `i` stands in `o`'s row of R78, carries `operand`, and is well formed where `o` is. -/
def IsOpWith (i : Instr) (o : Op) (operand : Operand) : Prop :=
  opcode i = opcode o.withZeros ∧ immediate i = immediate o.withZeros ∧ operandOf i = operand ∧
    (o.withZeros.wf = true → i.wf = true)

theorem takesNone_isOpWith {o : Op} {operand : Operand} {i : Instr} (ho : operandOf o.withZeros = .none)
    (h : takesNone operand o.withZeros = .ok i) : IsOpWith i o operand := by
  obtain ⟨rfl, rfl⟩ := takesNone_ok h
  exact ⟨rfl, rfl, ho, id⟩

theorem attach_isOpWith {o : Op} {operand : Operand} {i : Instr} (h : attach o operand = .ok i) : IsOpWith i o operand := by
  cases o with
  | edge | idleTo | hbTo | tick | start | rxget | status | clrf | encode => exact takesNone_isOpWith rfl h
  | enq | crc8 | parse => obtain ⟨bs, rfl, rfl⟩ := takesBytes_ok h; exact ⟨rfl, rfl, rfl, id⟩
  | frame => obtain ⟨src, dest, ce, payload, rfl, rfl⟩ := takesFrame_ok h; exact ⟨rfl, rfl, rfl, id⟩
  | confirm => obtain ⟨hdr, rfl, hw, rfl⟩ := takesHeader_ok h; exact ⟨rfl, rfl, rfl, fun _ => hw⟩

theorem decode_ok {c : Command} {i : Instr} (h : decode c = .ok i) :
    ∃ o, decodeWord c.word = .ok o ∧ attach o c.operand = .ok i := by
  unfold decode at h
  split at h
  · rename_i o ho
    exact ⟨o, ho, h⟩
  · cases h

/-- An instruction whose fields decode to the operation that, with its operand, makes it again. -/
theorem decode_encode_of_attach {i : Instr} {o : Op} (hfields : decodeFields (opcode i) (immediate i) = .ok o)
    (hattach : attach o (operandOf i) = .ok i) : decode (encode i) = .ok i := by
  simp only [decode, decodeWord, opOf_encode, immOf_encode, operand_encode, hfields, hattach]

/-! ## Both directions of the round trip -/

/-- Settles O2. The rows are read off their fields; `wf` passes `CLRF`'s test of its mask and `CONFIRM`'s of its header. -/
theorem decodeEncodeRoundTrip : Obligations.DecodeEncodeRoundTrip := by
  intro i hwf
  cases i with
  | edge l => cases l <;> exact decode_encode_of_attach rfl rfl
  | clrf mask => exact decode_encode_of_attach (if_pos hwf) rfl
  | frame src dest ce payload => cases ce <;> exact decode_encode_of_attach rfl rfl
  | confirm hdr => exact decode_encode_of_attach rfl (if_pos hwf)
  | idleTo | hbTo | tick | start | enq | rxget | status | crc8 | encode | parse => exact decode_encode_of_attach rfl rfl

/-- Settles O3: the word is its operation's own, and the instruction read stands in that operation's row. -/
theorem encodeDecodeRoundTrip : Obligations.EncodeDecodeRoundTrip := by
  intro c i h
  obtain ⟨o, hop, hattach⟩ := decode_ok h
  obtain ⟨hw, howf⟩ := decodeWord_ok hop
  obtain ⟨hcode, himm, hoperand, hwf⟩ := attach_isOpWith hattach
  have hword : (encode i).word = c.word :=
    calc immediate i ++ opcode i = immediate o.withZeros ++ opcode o.withZeros := by rw [himm, hcode]
      _ = c.word := hw.symm
  refine ⟨hwf howf, ?_⟩
  calc encode i = ⟨(encode i).word, operandOf i⟩ := rfl
    _ = c := by rw [hword, hoperand]

/-! ## Match and mask of a row (R79) -/

/-- Under a mask that keeps all of `OP`, a match fixes `OP` and the immediate's masked bits. -/
theorem fields_of_masked {w mask m : Word16} (hmask : opOf mask = 0xFF#8) (h : w &&& mask = m) :
    opOf w = opOf m ∧ immOf w &&& immOf mask = immOf m := by
  subst h
  have hop : opOf (w &&& mask) = opOf w &&& opOf mask := BitVec.extractLsb'_and
  have himm : immOf (w &&& mask) = immOf w &&& immOf mask := BitVec.extractLsb'_and
  exact ⟨by rw [hop, hmask]; exact BitVec.and_allOnes.symm, himm.symm⟩

theorem decodeWord_of_edge_match {w : Word16} (h : w &&& 0xFEFF#16 = 0x0001#16) :
    decodeWord w = .ok (.edge (w.getLsbD 8)) := by
  obtain ⟨hop, himm⟩ := fields_of_masked rfl h
  have hres : ∀ imm : Byte, imm &&& 0xFE#8 = 0#8 → imm.extractLsb' 1 7 = 0#7 := by decide
  have hl : (immOf w).getLsbD 0 = w.getLsbD 8 := by simp [immOf]
  rw [decodeWord, hop, ← hl]
  exact if_pos (hres _ himm)

theorem decodeWord_of_encode_match {w : Word16} (h : w &&& 0x00FF#16 = 0x0021#16) :
    decodeWord w = .ok (.encode (immOf w)) := by
  obtain ⟨hop, -⟩ := fields_of_masked rfl h
  rw [decodeWord, hop]
  rfl

theorem decodeWord_of_clrf_match {w : Word16} (h : w &&& 0xAFFF#16 = 0x0013#16) :
    decodeWord w = .ok (.clrf (immOf w)) := by
  obtain ⟨hop, himm⟩ := fields_of_masked rfl h
  rw [decodeWord, hop]
  exact if_pos (beq_iff_eq.2 himm)

/-- Settles O4: the three rows with immediate bits by their fields; and a word that decodes, being the word of its operation, lies in
that operation's row. -/
theorem wordsMatchTheirTableRow : Obligations.WordsMatchTheirTableRow := by
  refine ⟨fun _ => decodeWord_of_edge_match, fun _ => decodeWord_of_encode_match, fun _ => decodeWord_of_clrf_match,
    rfl, rfl, rfl, rfl, rfl, rfl, rfl, rfl, rfl, rfl, rfl, ?_⟩
  intro w o h
  obtain ⟨rfl, hwf⟩ := decodeWord_ok h
  cases o with
  | edge l => exact .inl (Laws.RowMatch.edge l rfl)
  | encode v => exact .inr (.inl (Laws.RowMatch.encode v rfl))
  | clrf mask => exact .inr (.inr (.inl (Laws.RowMatch.clrf mask hwf)))
  | idleTo | hbTo | tick | start | enq | rxget | status | crc8 | frame | parse | confirm => decide

/-- Settles O1, by running the decoder on each word. -/
theorem commandWordsDecode : Obligations.CommandWordsDecode := by
  unfold Obligations.CommandWordsDecode
  decide

end Sys2Proof

namespace Sys2Proof.Machine

/-! ## Illegal words (R82) -/

theorem present_illegal {c : Command} {e : Illegal} (h : decode c = .error e) (s : State) : present c s = .next (refuse s) := by
  simp [present, h]

/-- Whichever of its two tests the host port meets first, R258's or R81's. -/
theorem execute_illegal {c : Command} {e : Illegal} (h : decode c = .error e) (s : State) : execute c s = .next (refuse s) := by
  simp [execute, h]

/-- Settles O7: both layers answer an illegal word with `refuse`. -/
theorem illegalWordIsRefused : Obligations.IllegalWordIsRefused := by
  refine ⟨rfl, fun c e rest s h => ⟨?_, execute_illegal h s⟩⟩
  rw [step_word, present_illegal h]
  rfl

/-! ## `DRAIN` (R85, R226, R227) -/

theorem exec_rxget_empty {s : State} (he : ringEmpty s.rxRing = true) : exec .rxget s = .next (raise .empty s) := by
  simp [exec, execRxget, he]

theorem exec_rxget_byte {s : State} (h : RingOk s.cfg.nRx s.rxRing) (he : ringEmpty s.rxRing = false) :
    ∃ b r, exec .rxget s = .next (respond .ok (.byte b) { s with rxRing := r }) ∧ RingOk s.cfg.nRx r ∧
      ringBytes s.cfg.nRx s.rxRing = b :: ringBytes s.cfg.nRx r := by
  obtain ⟨b, hget, hok, _, hbytes⟩ := ringGet_spec h he
  exact ⟨b, _, by simp only [exec, execRxget, he, hget]; rfl, hok, hbytes⟩

/-- `EMPTY` ends the reading. -/
theorem drain_empty {fuel : Nat} {s t : State} (h : exec .rxget s = .next t) (hr : t.resp = some ⟨.empty, .none⟩) :
    drain (fuel + 1) s = ([], .next t) := by
  simp [drain, h, hr]

/-- A byte read stands before those of the readings after it. -/
theorem drain_byte {fuel : Nat} {s t : State} {b : Byte} (h : exec .rxget s = .next t) (hr : t.resp = some ⟨.ok, .byte b⟩) :
    drain (fuel + 1) s = (b :: (drain fuel t).1, (drain fuel t).2) := by
  simp [drain, h, hr]

/-- Settles O25, by induction on the number of readings: each takes the oldest byte, so the count falls with the fuel. -/
theorem drainReadsTheRingInOrder : Obligations.DrainReadsTheRingInOrder := by
  intro fuel
  induction fuel with
  | zero => intro s _ hfuel; omega
  | succ fuel ih =>
    intro s hok hfuel
    cases he : ringEmpty s.rxRing with
    | true =>
      obtain ⟨hput, hget, _⟩ := hok
      rw [drain_empty (exec_rxget_empty he) rfl, ringBytes_of_empty hput hget he]
      exact ⟨rfl, _, rfl, he, rfl⟩
    | false =>
      obtain ⟨b, r, hexec, hr, hbytes⟩ := exec_rxget_byte hok he
      have hcount : ringCount s.cfg.nRx s.rxRing = ringCount s.cfg.nRx r + 1 := by
        rw [← ringBytes_length hok, ← ringBytes_length hr, hbytes, List.length_cons]
      obtain ⟨hread, hend⟩ := ih (respond .ok (.byte b) { s with rxRing := r }) hr (by simp; omega)
      rw [drain_byte hexec rfl, hbytes]
      exact ⟨congrArg (b :: ·) hread, hend⟩

end Sys2Proof.Machine
end

section
/-! SUPPORT. The proofs of family 40_line_monitor.md: what `EDGE` and `IDLE_TO` do to the line monitor and the receiver (R100 to R102,
R222, R225), events that are not admitted (R101, R194, R195, R224), and the frames of the five events. -/

namespace Sys2Proof.Machine

/-! ## Events that are not admitted -/

theorem exec_idleTo_disarmed {s : State} (h : s.idleArmed = false) : exec .idleTo s = .fault .idleToNotAdmitted := by
  simp [exec, execIdleTo, h]

theorem exec_hbTo_disarmed {s : State} (h : s.hbArmed = false) : exec .hbTo s = .fault .hbToNotAdmitted := by
  simp [exec, execHbTo, h]

theorem exec_tick_disarmed {s : State} (h : s.tickArmed = false) : exec .tick s = .fault .tickNotAdmitted := by
  simp [exec, execTick, h]

theorem exec_start_not_ready {s : State} (h : startReady s = false) : exec .start s = .fault .startNotAdmitted := by
  simp [exec, execStart, h]

theorem startReady_eq_false {s : State} (h : s.txActive = true ∨ ringEmpty s.txRing = true ∨ s.ls ≠ .idle) :
    startReady s = false := by
  rw [← Bool.not_eq_true, startReady_iff]
  rintro ⟨hactive, hempty, hidle⟩
  simp [hactive, hempty, hidle] at h

theorem present_not_admitted {c : Command} {i : Instr} {s : State} (hd : decode c = .ok i) (ha : admitted i s = false) :
    present c s = .next s := by
  simp [present, hd, ha]

/-- Settles O6: each meaning tests its own condition first, and presenting a word tests `admitted`. -/
theorem unadmittedEventHasNoStep : Obligations.UnadmittedEventHasNoStep := by
  refine ⟨fun _ => exec_idleTo_disarmed, fun _ => exec_hbTo_disarmed, fun _ => exec_tick_disarmed,
    fun _ h => exec_start_not_ready (startReady_eq_false h), fun c i rest s hd ha => ?_⟩
  rw [step_word, present_not_admitted hd ha]

/-! ## The idle timeout (R101, R225) -/

theorem exec_idleTo_released {s : State} (ha : s.idleArmed = true) (hl : s.lastLevel = s.cfg.releasedLevel) :
    exec .idleTo s =
      .next { s with idleArmed := false, ls := .idle, rxCursor := 0, rxByte := 0#8, expData := true, hbArmed := false } := by
  simp [exec, execIdleTo, ha, hl, rxBoundary, disarm]

theorem exec_idleTo_collision {s : State} (ha : s.idleArmed = true) (hl : s.lastLevel ≠ s.cfg.releasedLevel) :
    exec .idleTo s = .next { s with idleArmed := false, ls := .collision } := by
  simp [exec, execIdleTo, ha, hl, disarm]

/-- Settles O17, one lemma per level of the line. -/
theorem idleTimeoutEndsAMessage : Obligations.IdleTimeoutEndsAMessage :=
  ⟨fun _ => exec_idleTo_released, fun _ => exec_idleTo_collision⟩

/-! ## The edge (R100, R222, R223) -/

/-- `EDGE` is the monitor's part and then the receiver's (R100). -/
theorem exec_edge (l : Bit) (s : State) : exec (.edge l) s = rxEdge l (monitorEdge l s) := rfl

/-- Settles O18: the receiver's boundary case, after the monitor's writes. -/
theorem boundaryEdgeIsNotSampled : Obligations.BoundaryEdgeIsNotSampled := by
  intro l s he
  rw [exec_edge, rxEdge_boundary l ((monitorEdge_expData l s).trans he)]
  rfl

/-- Settles O19: the receiver's data case before the last bit, with the bits that `setBit` leaves. -/
theorem dataEdgeSamplesOneBit : Obligations.DataEdgeSamplesOneBit := by
  intro l s he hc
  refine ⟨setBit s.rxByte (7 - s.rxCursor.val) l, fun k hk => ?_, ?_⟩
  · simp only [getLsbD_setBit, hk, and_true]
  · rw [exec_edge, rxEdge_data l ((monitorEdge_expData l s).trans he) hc]
    rfl

/-- Settles O50. Each of the receiver's four cases writes only the fields listed; only the push into a full ring touches the flag, and
only the push into a ring with room writes a slot. -/
theorem frameOfEdge : Obligations.FrameOfEdge := by
  intro l s t h
  rcases rxEdge_cases (execEdge_cases h) with ⟨_, rfl⟩ | ⟨_, _, rfl⟩ | ⟨_, _, hfull, rfl⟩ | ⟨he, hc, hroom, _, rfl⟩
  · exact ⟨rfl, fun hne => absurd rfl hne, fun _ _ => rfl⟩
  · exact ⟨rfl, fun hne => absurd rfl hne, fun _ _ => rfl⟩
  · exact ⟨rfl, fun _ => hfull, fun _ _ => rfl⟩
  · exact ⟨rfl, fun hne => absurd rfl hne, fun a ha => read_write_ne _ _ (ha ⟨he, hc, hroom⟩)⟩

/-! ## The frames of the other events -/

/-- The drive path writes the shift register, the line's outputs and `txGet`. -/
theorem driveNext_frame {s t : State} (h : driveNext s = .next t) :
    ∃ v k l g, t = { s with
      txShift := v, txBitsLeft := k, txEn := true, txLevel := l, txRing := { s.txRing with get := g } } := by
  rcases driveNext_cases h with ⟨_, rfl⟩ | ⟨_, _, _, rfl⟩
  · exact ⟨_, _, _, s.txRing.get, rfl⟩
  · exact ⟨_, _, _, _, rfl⟩

/-- Settles O52, by the inversion lemma of each event; `TICK` and `START` drive by one lemma. -/
theorem frameOfTimerEvents : Obligations.FrameOfTimerEvents := by
  refine ⟨fun s t h => ?_, fun s t h => ?_, fun s t h => ?_, fun s t h => ?_⟩
  · obtain ⟨_, ⟨_, rfl⟩ | ⟨_, rfl⟩⟩ := execIdleTo_cases h <;> rfl
  · obtain ⟨_, rfl⟩ := execHbTo_cases h
    rfl
  · obtain ⟨_, ⟨hcollision, rfl⟩ | ⟨_, _, _, rfl⟩ | ⟨_, _, hd⟩⟩ := execTick_cases h
    · exact ⟨rfl, fun _ => hcollision⟩
    · exact ⟨rfl, fun hne => absurd rfl hne⟩
    · obtain ⟨v, k, l, g, rfl⟩ := driveNext_frame hd
      exact ⟨rfl, fun hne => absurd rfl hne⟩
  · obtain ⟨_, _, _, hd⟩ := execStart_cases h
    obtain ⟨v, k, l, g, rfl⟩ := driveNext_frame hd
    rfl

/-! ## The line state (R102) -/

/-- A host command writes nothing but the rings, the sticky flags, the mark and the response, in any state. -/
theorem exec_command_frame {i : Instr} {s t : State} (hi : i.isEvent = false) (h : exec i s = .next t) :
    ∃ rx tx ab ov rf rs,
      t = { s with rxRing := rx, txRing := tx, txAborted := ab, rxOverflow := ov, refused := rf, resp := rs } := by
  cases i with
  | edge | idleTo | hbTo | tick | start => cases hi
  | enq => obtain ⟨_, _, _, rfl⟩ | ⟨_, _, _, _, _, rfl⟩ := execEnq_cases h <;> exact ⟨_, _, _, _, _, _, rfl⟩
  | rxget => obtain ⟨_, rfl⟩ | ⟨_, _, _, rfl⟩ := execRxget_cases h <;> exact ⟨_, _, _, _, _, _, rfl⟩
  | clrf => obtain ⟨_, rfl⟩ | ⟨_, rfl⟩ := execClrf_cases h <;> exact ⟨_, _, _, _, _, _, rfl⟩
  | status | crc8 | encode => cases h; exact ⟨_, _, _, _, _, _, rfl⟩
  | frame => obtain ⟨_, rfl⟩ | ⟨_, _, _, rfl⟩ := execFrame_cases h <;> exact ⟨_, _, _, _, _, _, rfl⟩
  | parse => obtain ⟨_, _, rfl⟩ | ⟨_, _, rfl⟩ := execParse_cases h <;> exact ⟨_, _, _, _, _, _, rfl⟩
  | confirm => obtain ⟨_, _, rfl⟩ | ⟨_, _, rfl⟩ | ⟨_, rfl⟩ := execConfirm_cases h <;> exact ⟨_, _, _, _, _, _, rfl⟩

/-- The frames of the other events and of the host commands leave out `ls`. -/
theorem exec_ls_eq {i : Instr} {s t : State} (hedge : ∀ l, i ≠ .edge l) (hidle : i ≠ .idleTo) (h : exec i s = .next t) :
    t.ls = s.ls := by
  obtain ⟨_, hhb, htick, hstart⟩ := frameOfTimerEvents
  cases i with
  | edge l => exact absurd rfl (hedge l)
  | idleTo => exact absurd rfl hidle
  | hbTo => rw [hhb s t h]
  | tick => rw [(htick s t h).1]
  | start => rw [hstart s t h]
  | enq | rxget | status | clrf | crc8 | encode | frame | parse | confirm =>
    obtain ⟨_, _, _, _, _, _, rfl⟩ := exec_command_frame rfl h
    rfl

theorem exec_edge_busy {l : Bit} {s t : State} (h : exec (.edge l) s = .next t) : t.ls = .busy ∧ t.idleArmed = true := by
  rcases rxEdge_cases (execEdge_cases h) with ⟨_, rfl⟩ | ⟨_, _, rfl⟩ | ⟨_, _, _, rfl⟩ | ⟨_, _, _, _, rfl⟩ <;> exact ⟨rfl, rfl⟩

theorem exec_idleTo_ls {s t : State} (h : exec .idleTo s = .next t) :
    t.ls = if s.lastLevel = s.cfg.releasedLevel then .idle else .collision := by
  obtain ⟨_, ⟨hl, rfl⟩ | ⟨hl, rfl⟩⟩ := execIdleTo_cases h
  · rw [if_pos hl]
  · rw [if_neg hl]

/-- Settles O16. I1 ties the timeout's admission to BUSY: an armed timer has it, and off BUSY no timer is armed. -/
theorem lineStateTransitionTable : Obligations.LineStateTransitionTable := by
  refine ⟨rfl, fun _ _ _ => exec_edge_busy, fun s t hi1 h => ?_, fun s hi1 hls => ?_, fun _ _ _ => exec_ls_eq⟩
  · obtain ⟨harmed, _⟩ := execIdleTo_cases h
    exact ⟨hi1 harmed, exec_idleTo_ls h⟩
  · exact exec_idleTo_disarmed (eq_false_of_ne_true (mt hi1 hls))

end Sys2Proof.Machine
end

section
/-! SUPPORT. The proofs of family 41_crc8.md: the table's entries are eight shift steps (R123), and a shift step is linear and
injective, which gives the algebraic laws of `crc8` (R125). -/

namespace Sys2Proof.Machine

/-! ## The shift step is linear and injective (R120) -/

theorem crcShift_of_msb {poly c : Byte} (h : c.getLsbD 7 = true) : crcShift poly c = c <<< 1 ^^^ poly := if_pos h

theorem crcShift_of_not_msb {poly c : Byte} (h : c.getLsbD 7 = false) : crcShift poly c = c <<< 1 :=
  if_neg (ne_true_of_eq_false h)

theorem crcShift_zero (poly : Byte) : crcShift poly 0#8 = 0#8 := crcShift_of_not_msb rfl

/-- The shift is linear, and the polynomial is taken where exactly one of the two bits 7 is 1. -/
theorem crcShift_xor (poly c d : Byte) : crcShift poly (c ^^^ d) = crcShift poly c ^^^ crcShift poly d := by
  simp only [crcShift, BitVec.getLsbD_xor, BitVec.shiftLeft_xor_distrib]
  cases c.getLsbD 7 <;> cases d.getLsbD 7
  · rfl
  · exact BitVec.xor_assoc ..
  · simp only [Bool.true_bne, Bool.not_false, if_true, Bool.false_eq_true, if_false]
    ac_rfl
  · have hpoly : c <<< 1 ^^^ poly ^^^ (d <<< 1 ^^^ poly) = c <<< 1 ^^^ d <<< 1 ^^^ (poly ^^^ poly) := by ac_rfl
    simp [hpoly]

/-- Where bit 7 is 1 the step sets bit 0, the polynomial's constant term; where it is 0 the shift loses no bit. -/
theorem eq_zero_of_crcShift_eq_zero {poly c : Byte} (hconst : poly.getLsbD 0 = true) (h : crcShift poly c = 0#8) :
    c = 0#8 := by
  cases hmsb : c.getLsbD 7 with
  | true =>
    rw [crcShift_of_msb hmsb] at h
    have hbit : (c <<< 1 ^^^ poly).getLsbD 0 = true := by rw [BitVec.getLsbD_xor, hconst]; simp
    rw [h] at hbit
    cases hbit
  | false =>
    rw [crcShift_of_not_msb hmsb] at h
    refine BitVec.eq_of_getLsbD_eq fun i hi => ?_
    obtain rfl | hlt : i = 7 ∨ i + 1 < 8 := by omega
    · exact hmsb
    · have hbit : (c <<< 1).getLsbD (i + 1) = false := by rw [h, BitVec.getLsbD_zero]
      rw [BitVec.getLsbD_zero, ← hbit, BitVec.getLsbD_shiftLeft]
      simp [hlt]

theorem crcShift_injective {poly : Byte} (hconst : poly.getLsbD 0 = true) : (crcShift poly).Injective := fun c d h =>
  BitVec.xor_eq_zero_iff.mp <| eq_zero_of_crcShift_eq_zero hconst <| by rw [crcShift_xor, h, BitVec.xor_self]

theorem crcShift_iterate_xor (poly c d : Byte) (n : Nat) :
    (crcShift poly)^[n] (c ^^^ d) = (crcShift poly)^[n] c ^^^ (crcShift poly)^[n] d := by
  induction n generalizing c d with
  | zero => rfl
  | succ n ih => simp only [Function.iterate_succ_apply, crcShift_xor, ih]

theorem crcShift8_xor (poly c d : Byte) : crcShift8 poly (c ^^^ d) = crcShift8 poly c ^^^ crcShift8 poly d :=
  crcShift_iterate_xor poly c d 8

@[simp] theorem crcShift8_zero (poly : Byte) : crcShift8 poly 0#8 = 0#8 :=
  Function.iterate_fixed (crcShift_zero poly) 8

theorem crcShift8_injective {poly : Byte} (hconst : poly.getLsbD 0 = true) : (crcShift8 poly).Injective :=
  (crcShift_injective hconst).iterate 8

/-- `CRC_POLY`'s constant term is 1. -/
theorem crcShift8_crcPoly_ne_zero {c : Byte} (hc : c ≠ 0#8) : crcShift8 crcPoly c ≠ 0#8 := by
  rw [← crcShift8_zero crcPoly]
  exact (crcShift8_injective rfl).ne hc

/-! ## The table agrees with the bit-at-a-time reference (R121, R123) -/

theorem tableAt_buildTable (poly x : Byte) : tableAt (buildTable poly) x = crcShift8 poly x := by
  have hx : x.toNat < 256 := x.isLt
  simp [tableAt, buildTable, hx]

/-- Settles O26: the two folds have the same step. -/
theorem crcTableAgreesWithBitwise : Obligations.CrcTableAgreesWithBitwise := fun bs => by
  simp only [compute, computeBitwise, crcTable, tableAt_buildTable, crcShift8]

/-- Settles O28: `crc8` is the table-driven fold, which O26 equates with the reference. -/
theorem crc8ReturnsTheChecksum : Obligations.Crc8ReturnsTheChecksum := fun bs s => by
  rw [← crcTableAgreesWithBitwise bs]
  rfl

/-! ## The running checksum (R122) -/

/-- The loop of R123 over `bs` from the running checksum `c`. -/
def crcFrom (c : Byte) (bs : List Byte) : Byte := bs.foldl (fun crc b => crcShift8 crcPoly (crc ^^^ b)) c

@[simp] theorem crcFrom_nil (c : Byte) : crcFrom c [] = c := rfl

@[simp] theorem crcFrom_cons (c b : Byte) (bs : List Byte) :
    crcFrom c (b :: bs) = crcFrom (crcShift8 crcPoly (c ^^^ b)) bs := rfl

@[simp] theorem crcFrom_append (c : Byte) (as bs : List Byte) : crcFrom c (as ++ bs) = crcFrom (crcFrom c as) bs :=
  List.foldl_append

theorem crc8_eq_crcFrom (bs : List Byte) : crc8 bs = crcFrom 0#8 bs := crcTableAgreesWithBitwise bs

theorem crcFrom_xor (c d : Byte) {as bs : List Byte} (hlen : as.length = bs.length) :
    crcFrom (c ^^^ d) (List.zipWith (fun x y => x ^^^ y) as bs) = crcFrom c as ^^^ crcFrom d bs := by
  induction as generalizing c d bs with
  | nil => obtain rfl := List.length_eq_zero_iff.mp hlen.symm; rfl
  | cons a as ih =>
    obtain _ | ⟨b, bs⟩ := bs
    · cases hlen
    · have hstep : crcShift8 crcPoly (c ^^^ d ^^^ (a ^^^ b)) = crcShift8 crcPoly (c ^^^ a) ^^^ crcShift8 crcPoly (d ^^^ b) := by
        rw [← crcShift8_xor]
        congr 1
        ac_rfl
      rw [List.zipWith_cons_cons, crcFrom_cons, hstep]
      exact ih _ _ (Nat.succ.inj hlen)

/-- Bytes that are the same on both sides carry a difference of the running checksums as zero bytes would. -/
theorem crcFrom_xor_replicate_zero (c d : Byte) (bs : List Byte) :
    crcFrom (c ^^^ d) bs = crcFrom c bs ^^^ crcFrom d (List.replicate bs.length 0#8) := by
  rw [← crcFrom_xor c d List.length_replicate.symm]
  congr 1
  induction bs with
  | nil => rfl
  | cons b bs ih => simpa [List.replicate_succ] using ih

theorem crcFrom_replicate_zero_ne_zero {c : Byte} (hc : c ≠ 0#8) (n : Nat) : crcFrom c (List.replicate n 0#8) ≠ 0#8 := by
  induction n generalizing c with
  | zero => exact hc
  | succ n ih =>
    rw [List.replicate_succ, crcFrom_cons, BitVec.xor_zero]
    exact ih (crcShift8_crcPoly_ne_zero hc)

/-! ## The laws (R125) -/

theorem crc8_zero_cons (bs : List Byte) : crc8 (0#8 :: bs) = crc8 bs := by simp [crc8_eq_crcFrom]

theorem crc8_append_crc8 (bs : List Byte) : crc8 (bs ++ [crc8 bs]) = 0#8 := by simp [crc8_eq_crcFrom]

/-- An error `e` in one byte changes the checksum by the checksum of `e` alone. -/
theorem crc8_xor_byte (as bs : List Byte) (x e : Byte) :
    crc8 (as ++ (x ^^^ e) :: bs) = crc8 (as ++ x :: bs) ^^^ crc8 (e :: List.replicate bs.length 0#8) := by
  simp only [crc8_eq_crcFrom, crcFrom_append, crcFrom_cons, BitVec.zero_xor, ← BitVec.xor_assoc]
  rw [crcShift8_xor, crcFrom_xor_replicate_zero]

/-- The change of `crc8_xor_byte` is never 0. -/
theorem crc8_xor_byte_ne (as bs : List Byte) (x : Byte) {e : Byte} (he : e ≠ 0#8) :
    crc8 (as ++ (x ^^^ e) :: bs) ≠ crc8 (as ++ x :: bs) := by
  have hchange : crc8 (e :: List.replicate bs.length 0#8) ≠ 0#8 := by
    rw [crc8_eq_crcFrom, crcFrom_cons, BitVec.zero_xor]
    exact crcFrom_replicate_zero_ne_zero (crcShift8_crcPoly_ne_zero he) _
  rw [crc8_xor_byte]
  exact fun heq => hchange ((BitVec.xor_right_inj _).mp (heq.trans BitVec.xor_zero.symm))

theorem one_shiftLeft_ne_zero {k : Nat} (hk : k < 8) : 1#8 <<< k ≠ 0#8 := by decide +revert

/-- Settles O27: linearity of the fold gives the change a flipped bit makes, injectivity of the step that it is not 0. -/
theorem crcLaws : Obligations.CrcLaws := by
  refine ⟨fun a b hlen => ?_, crc8_zero_cons, crc8_append_crc8, fun a b x k hk => ?_, fun h a b x k hk hen hp hok => ?_⟩
  · simp only [crc8_eq_crcFrom]
    rw [← crcFrom_xor 0#8 0#8 hlen, BitVec.xor_self]
  · exact ⟨crc8_xor_byte a b x _, crc8_xor_byte_ne a b x (one_shiftLeft_ne_zero hk)⟩
  · simp only [confirmCrc, hen, if_true, hp, beq_iff_eq, beq_eq_false_iff_ne] at hok ⊢
    rw [← hok]
    exact crc8_xor_byte_ne a b x (one_shiftLeft_ne_zero hk)

end Sys2Proof.Machine
end

section
/-! SUPPORT. The proofs of family 42_framer.md: when `parse` returns which header or error (R143), that it inverts `serialize` (R149),
and the responses of `FRAME`, `PARSE` and `CONFIRM` (R146 to R148). -/

namespace Sys2Proof.Machine

/-! ## The checks of `parse` (R143) -/

/-- The header that stands at R72's places in `buf`, whatever the checks say of it. -/
def headerIn (buf : List Byte) : Header where
  sync := byteAt buf 0
  version := byteAt buf 1
  src := byteAt buf 2
  dest := byteAt buf 3
  length := byteAt buf 4
  crcEnabled := byteAt buf 5 != 0#8
  payload := (buf.drop hdrSize).take (byteAt buf 4).toNat
  crc8 := byteAt buf (6 + (byteAt buf 4).toNat)

theorem parse_tooShort {buf : List Byte} (hlen : buf.length < 6) : parse buf = .error .tooShort := if_pos hlen

theorem parse_lengthMismatch {buf : List Byte} (hhdr : 6 ≤ buf.length) (hlen : buf.length < 7 + (byteAt buf 4).toNat) :
    parse buf = .error .lengthMismatch :=
  (if_neg (Nat.not_lt.mpr hhdr)).trans (if_pos (by simp only [hdrSize, trailerSize]; omega))

/-- Where the whole frame is there, the third check decides. -/
theorem parse_of_length {buf : List Byte} (hlen : 7 + (byteAt buf 4).toNat ≤ buf.length) :
    parse buf = if !(headerIn buf).crcEnabled && (headerIn buf).crc8 != sentinel then .error .badCrcSentinel
      else .ok (headerIn buf) :=
  (if_neg (by simp only [hdrSize]; omega)).trans (if_neg (by simp only [hdrSize, trailerSize]; omega))

theorem parse_badCrcSentinel {buf : List Byte} (hlen : 7 + (byteAt buf 4).toNat ≤ buf.length)
    (hce : (headerIn buf).crcEnabled = false) (hcrc : (headerIn buf).crc8 ≠ sentinel) : parse buf = .error .badCrcSentinel := by
  rw [parse_of_length hlen]
  exact if_pos (by simp [hce, hcrc])

theorem parse_ok {buf : List Byte} (hlen : 7 + (byteAt buf 4).toNat ≤ buf.length)
    (hcrc : (headerIn buf).crcEnabled = true ∨ (headerIn buf).crc8 = sentinel) : parse buf = .ok (headerIn buf) := by
  rw [parse_of_length hlen]
  exact if_neg (by rcases hcrc with h | h <;> simp [h])

/-- A shorter buffer fails before the third check. -/
theorem parse_of_length_lt {buf : List Byte} (hlen : buf.length < 7 + (byteAt buf 4).toNat) :
    parse buf = .error .tooShort ∨ parse buf = .error .lengthMismatch := by
  by_cases hhdr : buf.length < 6
  · exact .inl (parse_tooShort hhdr)
  · exact .inr (parse_lengthMismatch (Nat.not_lt.mp hhdr) hlen)

/-- A buffer that parses passed all three checks. -/
theorem parse_ok_cases {buf : List Byte} {h : Header} (hp : parse buf = .ok h) :
    7 + (byteAt buf 4).toNat ≤ buf.length ∧ (h.crcEnabled = true ∨ h.crc8 = sentinel) ∧ headerIn buf = h := by
  by_cases hlen : buf.length < 7 + (byteAt buf 4).toNat
  · rcases parse_of_length_lt hlen with he | he <;> cases he.symm.trans hp
  · rw [parse_of_length (Nat.not_lt.mp hlen)] at hp
    split at hp
    · cases hp
    · rename_i hcrc
      cases hp
      exact ⟨Nat.not_lt.mp hlen, by simpa [or_iff_not_imp_left] using hcrc, rfl⟩

/-! ## What `parse` does not look at (R144) -/

theorem byteAt_append {buf : List Byte} {k : Nat} (hk : k < buf.length) (extra : List Byte) :
    byteAt (buf ++ extra) k = byteAt buf k := List.getD_append _ _ _ _ hk

theorem headerIn_append {buf : List Byte} (hlen : 7 + (byteAt buf 4).toNat ≤ buf.length) (extra : List Byte) :
    headerIn (buf ++ extra) = headerIn buf := by
  have hpayload : ((buf ++ extra).drop hdrSize).take (byteAt buf 4).toNat = (buf.drop hdrSize).take (byteAt buf 4).toNat := by
    rw [List.drop_append_of_le_length (by simp only [hdrSize]; omega),
      List.take_append_of_le_length (by simp only [hdrSize, List.length_drop]; omega)]
  simp (disch := omega) only [headerIn, byteAt_append, hpayload]

theorem parse_append {buf : List Byte} {h : Header} (hp : parse buf = .ok h) (extra : List Byte) :
    parse (buf ++ extra) = .ok h := by
  obtain ⟨hlen, hcrc, rfl⟩ := parse_ok_cases hp
  rw [← headerIn_append hlen extra] at hcrc ⊢
  refine parse_ok ?_ hcrc
  rw [byteAt_append (by omega), List.length_append]
  omega

theorem headerIn_replace_first_four (a b c d a' b' c' d' : Byte) (rest : List Byte) :
    headerIn (a' :: b' :: c' :: d' :: rest) =
      { headerIn (a :: b :: c :: d :: rest) with sync := a', version := b', src := c', dest := d' } := by
  simp [headerIn, byteAt, hdrSize, Nat.add_comm 6]

/-- Settles O33. The checks read bytes 4, 5 and the trailer; six bytes are one too few for an empty payload. -/
theorem parseChecksNothingElse : Obligations.ParseChecksNothingElse := by
  refine ⟨fun buf extra h hp => parse_append hp extra, fun a b c d a' b' c' d' rest h hp => ?_, fun buf hlen => ?_⟩
  · obtain ⟨hlen, hcrc, rfl⟩ := parse_ok_cases hp
    have hin := headerIn_replace_first_four a b c d a' b' c' d' rest
    rw [← hin]
    exact parse_ok (buf := a' :: b' :: c' :: d' :: rest) hlen (by rwa [hin])
  · exact parse_lengthMismatch hlen.ge (by omega)

/-- Settles O32: the third check rejects what the first two let pass. -/
theorem sentinelRule : Obligations.SentinelRule :=
  ⟨fun _ hlen hce hcrc => parse_badCrcSentinel hlen (bne_eq_false_iff_eq.mpr hce) hcrc, fun _ => parse_of_length_lt⟩

/-! ## The round trip (R142, R149) -/

theorem header_wf_iff {h : Header} : h.wf = true ↔ h.payload.length = h.length.toNat := beq_iff_eq

/-- R142. -/
theorem length_serialize {h : Header} (hwf : h.wf = true) : (serialize h).length = 7 + h.length.toNat := by
  have hpayload := header_wf_iff.mp hwf
  simp only [serialize, List.length_append, List.length_cons, List.length_nil]
  omega

theorem headerIn_serialize {h : Header} (hwf : h.wf = true) : headerIn (serialize h) = h := by
  have hpayload := header_wf_iff.mp hwf
  have htrailer : byteAt (serialize h) (6 + h.length.toNat) = h.crc8 := by
    simp [serialize, byteAt, ← hpayload, Nat.add_comm 6]
  have hce : (byteAt (serialize h) 5 != 0#8) = h.crcEnabled := by
    cases hc : h.crcEnabled <;> simp [serialize, byteAt, crcOnByte, hc]
  have htake : ((serialize h).drop hdrSize).take h.length.toNat = h.payload := by
    simp [serialize, hdrSize, ← hpayload]
  calc headerIn (serialize h)
      = { h with
          crcEnabled := byteAt (serialize h) 5 != 0#8
          payload := ((serialize h).drop hdrSize).take h.length.toNat
          crc8 := byteAt (serialize h) (6 + h.length.toNat) } := rfl
    _ = h := by rw [hce, htake, htrailer]

/-- R149 for every header that meets R150's rule of the sentinel. -/
theorem parse_serialize {h : Header} (hwf : h.wf = true) (hcrc : h.crcEnabled = true ∨ h.crc8 = sentinel) :
    parse (serialize h) = .ok h := by
  have hin := headerIn_serialize hwf
  rw [← hin] at hcrc
  rw [parse_ok (buf := serialize h) (length_serialize hwf).ge hcrc, hin]

theorem create_of_length_le (src dest : Byte) (ce : Bool) {p : List Byte} (hlen : p.length ≤ 255) :
    create src dest ce p = some ⟨syncByte, versionByte, src, dest, BitVec.ofNat 8 p.length, ce, p, if ce then crc8 p else sentinel⟩ :=
  if_neg (Nat.not_lt.mpr hlen)

/-- R145, by the reference of R123. -/
theorem confirmCrc_eq_true_iff {h : Header} :
    confirmCrc h = true ↔ h.crcEnabled = false ∨ computeBitwise h.payload = h.crc8 := by
  have hcrc : crc8 h.payload = computeBitwise h.payload := crcTableAgreesWithBitwise h.payload
  cases hce : h.crcEnabled <;> simp [confirmCrc, hce, hcrc]

/-- Settles O31. What `create` builds is well formed and passes both the sentinel rule and `confirmCrc`. -/
theorem framingRoundTrip : Obligations.FramingRoundTrip := by
  refine ⟨fun src dest ce p hlen => ?_, fun h hwf => ?_⟩
  · have hlength : p.length = (BitVec.ofNat 8 p.length).toNat := by rw [BitVec.toNat_ofNat]; omega
    refine ⟨_, create_of_length_le src dest ce hlen, header_wf_iff.mpr hlength, parse_serialize (header_wf_iff.mpr hlength) ?_,
      confirmCrc_eq_true_iff.mpr ?_, rfl, rfl, rfl, rfl⟩
    · cases ce <;> simp
    · cases ce
      · exact .inl rfl
      · exact .inr (crcTableAgreesWithBitwise p).symm
  · have hlength : h.length.toNat < 256 := h.length.isLt
    rw [length_serialize hwf]
    omega

/-! ## The commands (R146 to R148) -/

theorem exec_frame_of_create {src dest : Byte} {ce : Bool} {p : List Byte} {h : Header} (hc : create src dest ce p = some h)
    (s : State) : exec (.frame src dest ce p) s = .next (respond .ok (.bytes (serialize h)) s) := by
  simp only [exec, execFrame, hc]

theorem exec_parse_of_error {buf : List Byte} {e : ParseError} (hp : parse buf = .error e) (s : State) :
    exec (.parse buf) s = .next (raise e.code s) := by
  simp only [exec, execParse, hp]

theorem exec_parse_of_ok {buf : List Byte} {h : Header} (hp : parse buf = .ok h) (s : State) :
    exec (.parse buf) s = .next (respond .ok (.header h) s) := by
  simp only [exec, execParse, hp]

/-- Settles O29: 255 bytes is `create`'s limit, and `serialize` lays its header out as R72 does. -/
theorem frameBuildsTheWireFrame : Obligations.FrameBuildsTheWireFrame := by
  refine ⟨fun src dest ce p s hlen => exec_frame_of_create (create_of_length_le src dest ce hlen) s,
    fun src dest ce p s hlen => ?_⟩
  have hc : create src dest ce p = none := if_pos hlen
  simp only [exec, execFrame, hc]
  rfl

theorem take_drop_eq_map_byteAt {buf : List Byte} {m n : Nat} (hlen : m + n ≤ buf.length) :
    (buf.drop m).take n = (List.range n).map fun k => byteAt buf (m + k) := by
  refine List.ext_getElem ?_ fun k hk _ => ?_
  · rw [List.length_take, List.length_drop, List.length_map, List.length_range]
    omega
  · have hbyte : m + k < buf.length := by rw [List.length_take, List.length_drop] at hk; omega
    simp [byteAt, hbyte]

theorem headerIn_eq_bytes {buf : List Byte} (hlen : 7 + (byteAt buf 4).toNat ≤ buf.length) :
    headerIn buf = { headerIn buf with
      crcEnabled := decide (byteAt buf 5 ≠ 0#8)
      payload := (List.range (byteAt buf 4).toNat).map fun k => byteAt buf (6 + k) } := by
  rw [← take_drop_eq_map_byteAt (by omega)]
  simp [headerIn, hdrSize, bne, beq_eq_decide]

/-- Settles O30, each clause by the check that decides it. -/
theorem parseChecksInOrder : Obligations.ParseChecksInOrder := by
  intro buf s
  have hsize : 6 + (byteAt buf 4).toNat + 1 = 7 + (byteAt buf 4).toNat := by omega
  refine ⟨fun hlen => ?_, fun hhdr hlen => ?_, fun hlen hce hcrc => ?_, fun hlen hcrc => ?_⟩
  · exact exec_parse_of_error (parse_tooShort hlen) s
  · exact exec_parse_of_error (parse_lengthMismatch hhdr (hlen.trans_eq hsize)) s
  · exact exec_parse_of_error (parse_badCrcSentinel (hsize.ge.trans hlen) (bne_eq_false_iff_eq.mpr hce) hcrc) s
  · have hfits : 7 + (byteAt buf 4).toNat ≤ buf.length := hsize.ge.trans hlen
    rw [exec_parse_of_ok (parse_ok hfits (hcrc.imp_left bne_iff_ne.mpr)) s, headerIn_eq_bytes hfits]
    rfl

/-- Settles O34, with R145's table-driven checksum read by the reference (O26). -/
theorem confirmChecksTheTrailer : Obligations.ConfirmChecksTheTrailer := by
  refine ⟨fun h s hwf hok => ?_, fun h s hwf hce hbad => ?_, fun h s hlen => ?_⟩
  · simp only [exec, execConfirm, if_pos hwf, if_pos (confirmCrc_eq_true_iff.mpr hok)]
    rfl
  · have hc : ¬ confirmCrc h = true := fun hok =>
      (confirmCrc_eq_true_iff.mp hok).elim (ne_false_of_eq_true hce) hbad
    simp only [exec, execConfirm, if_pos hwf, if_neg hc]
    rfl
  · simp only [exec, execConfirm, if_neg (mt header_wf_iff.mp hlen)]
    rfl

end Sys2Proof.Machine
end

section
/-! SUPPORT. The proofs of family 43_manchester.md: the bits of a symbol (R172), and from them that it is valid and decodes back (R173),
its slots in time order (R174) and its closed form. -/

namespace Sys2Proof.Machine

/-! ## A loop that writes bits (R172, R173) -/

theorem getLsbD_foldl_range_of_unwritten {w : Nat} {f : BitVec w → Nat → BitVec w} {k : Nat}
    (hkeep : ∀ x j, (f x j).getLsbD k = x.getLsbD k) (n : Nat) (x : BitVec w) :
    ((List.range n).foldl f x).getLsbD k = x.getLsbD k := by
  induction n with
  | zero => rfl
  | succ n ih => rw [List.range_succ, List.foldl_concat, hkeep, ih]

/-- The bit that one turn of a loop writes and the other turns keep. -/
theorem getLsbD_foldl_range_of_written {w : Nat} {f : BitVec w → Nat → BitVec w} {k i n : Nat} {b : Bit} (hi : i < n)
    (hwrite : ∀ x, (f x i).getLsbD k = b) (hkeep : ∀ x j, j ≠ i → (f x j).getLsbD k = x.getLsbD k) (x : BitVec w) :
    ((List.range n).foldl f x).getLsbD k = b := by
  induction n with
  | zero => cases hi
  | succ n ih =>
    rw [List.range_succ, List.foldl_concat]
    obtain rfl | hin := Nat.eq_or_lt_of_le (Nat.le_of_lt_succ hi)
    · exact hwrite _
    · rw [hkeep _ n hin.ne', ih hin]

/-! ## The bits of a symbol, of `spread` and of `decodeSymbol` -/

theorem halfPair_eq (b : Bit) : halfPair b = (!b, b) := by cases b <;> rfl

theorem getLsbD_placePair (v : Byte) (sym : Word16) (i k : Nat) :
    (placePair v sym i).getLsbD k =
      if k = 2 * i ∧ k < 16 then v.getLsbD i else if k = 2 * i + 1 ∧ k < 16 then !v.getLsbD i else sym.getLsbD k := by
  rw [placePair, halfPair_eq, getLsbD_setBit, getLsbD_setBit]

theorem getLsbD_encodeByte_odd (v : Byte) {i : Nat} (hi : i < 8) : (encodeByte v).getLsbD (2 * i + 1) = !v.getLsbD i := by
  refine getLsbD_foldl_range_of_written hi (fun x => ?_) (fun x j hj => ?_) _ <;> rw [getLsbD_placePair]
  · rw [if_neg (by omega), if_pos (by omega)]
  · rw [if_neg (by omega), if_neg (by omega)]

theorem getLsbD_encodeByte_even (v : Byte) {i : Nat} (hi : i < 8) : (encodeByte v).getLsbD (2 * i) = v.getLsbD i := by
  refine getLsbD_foldl_range_of_written hi (fun x => ?_) (fun x j hj => ?_) _ <;> rw [getLsbD_placePair]
  · rw [if_pos (by omega)]
  · rw [if_neg (by omega), if_neg (by omega)]

theorem getLsbD_spread_odd (v : Byte) (i : Nat) : (spread v).getLsbD (2 * i + 1) = false := by
  refine (getLsbD_foldl_range_of_unwritten (fun x j => ?_) 8 _).trans BitVec.getLsbD_zero
  rw [getLsbD_setBit, if_neg (by omega)]

theorem getLsbD_spread_even (v : Byte) {i : Nat} (hi : i < 8) : (spread v).getLsbD (2 * i) = v.getLsbD i := by
  refine getLsbD_foldl_range_of_written hi (fun x => ?_) (fun x j hj => ?_) _ <;> rw [getLsbD_setBit]
  · rw [if_pos (by omega)]
  · rw [if_neg (by omega)]

theorem getLsbD_decodeSymbol (sym : Word16) {i : Nat} (hi : i < 8) : (decodeSymbol sym).getLsbD i = sym.getLsbD (2 * i) := by
  refine getLsbD_foldl_range_of_written hi (fun x => ?_) (fun x j hj => ?_) _ <;> rw [getLsbD_setBit]
  · rw [if_pos ⟨rfl, hi⟩]
  · rw [if_neg (by omega)]

/-! ## `ENCODE` (R173, R175) -/

theorem validSymbol_encodeByte (v : Byte) : validSymbol (encodeByte v) = true := by
  refine List.all_eq_true.mpr fun i hi => ?_
  have hi : i < 8 := List.mem_range.mp hi
  simp [getLsbD_encodeByte_odd v hi, getLsbD_encodeByte_even v hi]

theorem decodeSymbol_encodeByte (v : Byte) : decodeSymbol (encodeByte v) = v := by
  refine BitVec.eq_of_getLsbD_eq fun i hi => ?_
  rw [getLsbD_decodeSymbol _ hi, getLsbD_encodeByte_even v hi]

/-- Settles O35 with the symbol that `encodeByte` builds. -/
theorem encodeReturnsTheSymbol : Obligations.EncodeReturnsTheSymbol := fun v _ =>
  ⟨encodeByte v, rfl, fun _ hi => ⟨getLsbD_encodeByte_odd v hi, getLsbD_encodeByte_even v hi⟩, validSymbol_encodeByte v,
    decodeSymbol_encodeByte v⟩

/-! ## The slots (R71, R174) -/

theorem map_range_two_mul {α : Type} (f : Nat → α) (n : Nat) :
    (List.range (2 * n)).map f = (List.range n).flatMap fun k => [f (2 * k), f (2 * k + 1)] := by
  induction n with
  | zero => rfl
  | succ n ih => simp [Nat.mul_succ, List.range_succ, ← ih]

theorem symbolSlots_encodeByte (v : Byte) :
    symbolSlots (encodeByte v) = (List.range 8).flatMap fun k => [!v.getLsbD (7 - k), v.getLsbD (7 - k)] := by
  refine (map_range_two_mul _ 8).trans (List.flatMap_congr fun k hk => ?_)
  have hk : k < 8 := List.mem_range.mp hk
  have hfirst : 15 - 2 * k = 2 * (7 - k) + 1 := by omega
  have hsecond : 15 - (2 * k + 1) = 2 * (7 - k) := by omega
  rw [hfirst, hsecond, getLsbD_encodeByte_odd v (by omega), getLsbD_encodeByte_even v (by omega)]

@[simp] theorem length_symbolSlots (sym : Word16) : (symbolSlots sym).length = 16 := by simp [symbolSlots]

theorem length_wireSlots (bs : List Byte) : (wireSlots bs).length = 16 * bs.length := by
  simp [wireSlots, List.length_flatMap, Nat.mul_comm]

/-! ## The closed form of a symbol (R172) -/

theorem getLsbD_spread_shiftLeft_even (v : Byte) (i : Nat) : (spread v <<< 1).getLsbD (2 * i) = false := by
  cases i with
  | zero => simp
  | succ i => simp [Nat.mul_succ, getLsbD_spread_odd]

theorem getLsbD_spread_shiftLeft_odd (v : Byte) {i : Nat} (hi : i < 8) :
    (spread v <<< 1).getLsbD (2 * i + 1) = v.getLsbD i := by
  have hk : 2 * i + 1 < 16 := by omega
  rw [BitVec.getLsbD_shiftLeft, Nat.add_sub_cancel, getLsbD_spread_even v hi]
  simp [hk]

/-- The bits of `spread v` stand apart, so tripling it copies each into the place above without a carry. -/
theorem three_mul_spread (v : Byte) : 3#16 * spread v = spread v <<< 1 ||| spread v := by
  have hapart : spread v <<< 1 &&& spread v = 0#16 := by
    refine BitVec.eq_of_getLsbD_eq fun k _ => ?_
    rw [BitVec.getLsbD_and, BitVec.getLsbD_zero]
    obtain ⟨i, rfl | rfl⟩ := Nat.even_or_odd' k
    · rw [getLsbD_spread_shiftLeft_even, Bool.false_and]
    · rw [getLsbD_spread_odd, Bool.and_false]
  rw [← BitVec.add_eq_or_of_and_eq_zero _ _ hapart]
  bv_omega

theorem getLsbD_0xAAAA {i : Nat} (hi : i < 8) : (0xAAAA#16).getLsbD (2 * i) = false ∧ (0xAAAA#16).getLsbD (2 * i + 1) = true := by
  decide +revert

theorem encodeByte_eq_xor_spread (v : Byte) : encodeByte v = 0xAAAA#16 ^^^ (3#16 * spread v) := by
  rw [three_mul_spread]
  refine BitVec.eq_of_getLsbD_eq fun k hk => ?_
  rw [BitVec.getLsbD_xor, BitVec.getLsbD_or]
  obtain ⟨i, rfl | rfl⟩ := Nat.even_or_odd' k
  · have hi : i < 8 := by omega
    obtain ⟨hconst, _⟩ := getLsbD_0xAAAA hi
    rw [getLsbD_encodeByte_even v hi, hconst, getLsbD_spread_shiftLeft_even, getLsbD_spread_even v hi,
      Bool.false_or, Bool.false_xor]
  · have hi : i < 8 := by omega
    obtain ⟨_, hconst⟩ := getLsbD_0xAAAA hi
    rw [getLsbD_encodeByte_odd v hi, hconst, getLsbD_spread_shiftLeft_odd v hi, getLsbD_spread_odd,
      Bool.or_false, Bool.true_xor]

/-- Settles O36: each byte gives the slots of its symbol. -/
theorem slotsOfBytes : Obligations.SlotsOfBytes :=
  ⟨fun bs => ⟨List.flatMap_congr fun v _ => symbolSlots_encodeByte v, length_wireSlots bs⟩, encodeByte_eq_xor_spread⟩

end Sys2Proof.Machine
end

section
/-! SUPPORT. The proofs of family 44_transmitter.md, the event layer: what `ENQ` queues (R190), the slots a transmission has still to
drive (R52, R197), and that `START` and the ticks after it put them on the line one by one (R194, R195, R199). -/

namespace Sys2Proof.Machine

/-! ## `ENQ` (R190) -/

@[simp] theorem length_stationFrame (c : Config) (p : List Byte) : (stationFrame c p).length = 7 + p.length := by
  simp only [stationFrame, List.length_append, List.length_cons, List.length_nil]
  omega

theorem create_tooLarge (src dest : Byte) (ce : Bool) {p : List Byte} (hlen : 255 < p.length) : create src dest ce p = none :=
  if_pos hlen

/-- The header `ENQ` builds serializes to the station's frame. -/
theorem serialize_of_create {c : Config} {p : List Byte} {h : Header} (hc : create c.srcId c.destId c.crcEn p = some h) :
    serialize h = stationFrame c p := by
  have hlen : p.length ≤ 255 := Nat.not_lt.mp fun hlt => nomatch (create_tooLarge _ _ _ hlt).symm.trans hc
  cases (create_of_length_le _ _ _ hlen).symm.trans hc
  rfl

@[simp] theorem length_frameSymbols (wire : List Byte) : (frameSymbols wire).length = 2 * wire.length := by
  simp [frameSymbols, symbolBytes, List.length_flatMap, Nat.mul_comm]

theorem queueBlocked_iff (n : Nat) (s : State) :
    queueBlocked n s = true ↔ s.txActive = true ∨ ringEmpty s.txRing = false ∨ ringFree s.cfg.nTx s.txRing < 2 * n := by
  simp [queueBlocked, or_assoc]

theorem exec_enq_tooLarge {p : List Byte} (hlen : 255 < p.length) (s : State) :
    exec (.enq p) s = .next (raise .payloadTooLarge s) := by
  simp only [exec, execEnq, create_tooLarge _ _ _ hlen]

theorem exec_enq_blocked {p : List Byte} {s : State} (hlen : p.length ≤ 255) (hb : queueBlocked (7 + p.length) s = true) :
    exec (.enq p) s = .next (raise .queueFull s) := by
  have hc := create_of_length_le s.cfg.srcId s.cfg.destId s.cfg.crcEn hlen
  simp only [exec, execEnq, hc, serialize_of_create hc, length_stationFrame, hb, if_true]

/-- Where the check of R190 lets the frame through, the ring has room for it. -/
theorem exec_enq_accepted {p : List Byte} {s : State} (hr : RingOk s.cfg.nTx s.txRing) (hlen : p.length ≤ 255)
    (hb : queueBlocked (7 + p.length) s = false) :
    ∃ r, exec (.enq p) s = .next (respond .ok .none { s with txRing := r }) ∧ r.get = s.txRing.get ∧
      ringBytes s.cfg.nTx r = ringBytes s.cfg.nTx s.txRing ++ frameSymbols (stationFrame s.cfg p) := by
  have hroom : (frameSymbols (stationFrame s.cfg p)).length ≤ ringFree s.cfg.nTx s.txRing := by
    rw [← Bool.not_eq_true, queueBlocked_iff] at hb
    simp only [length_frameSymbols, length_stationFrame]
    omega
  obtain ⟨r, hput, _, hget, _, hbytes, _⟩ := ringPutAll_spec _ hr hroom
  have hc := create_of_length_le s.cfg.srcId s.cfg.destId s.cfg.crcEn hlen
  refine ⟨r, ?_, hget, hbytes⟩
  simp only [exec, execEnq, hc, serialize_of_create hc, length_stationFrame, hb, hput]
  rfl

/-- An empty ring of legal cursors has all its slots but one to fill. -/
theorem ringFree_of_empty {n : Nat} {r : Ring} (hr : RingOk n r) (he : ringEmpty r = true) : ringFree n r = n - 1 := by
  obtain ⟨hp, hg, _⟩ := hr
  rw [ringFree, (ringCount_eq_zero hp hg).mpr he, Nat.sub_zero]

/-- The loop of `ENQ`, in any ring: no slot changes but those from `put` on. -/
theorem ringPutAll_stored_read {n : Nat} {bs : List Byte} {r r' : Ring} (h : ringPutAll n r bs = .stored r') {a : Nat}
    (ha : ∀ k < bs.length, a ≠ (r.put + k) % n) : Memory.read r'.buf a = Memory.read r.buf a := by
  induction bs generalizing r with
  | nil => cases h; rfl
  | cons b bs ih =>
    simp only [ringPutAll] at h
    split at h
    · rename_i r1 h1
      obtain ⟨_, hp, rfl⟩ := ringPut_stored h1
      have ha0 : a ≠ r.put := by simpa [Nat.mod_eq_of_lt hp] using ha 0 (by simp)
      refine (ih h fun k hk => ?_).trans (read_write_ne _ _ ha0)
      simpa [Nat.add_assoc, Nat.add_comm 1 k] using ha (k + 1) (by simpa using hk)
    · cases h
    · cases h

/-- Settles O38: the size is `create`'s check, and the rest is `queueBlocked`. -/
theorem enqIsTurnedAway : Obligations.EnqIsTurnedAway :=
  ⟨fun _ s hlen => exec_enq_tooLarge hlen s,
    fun _ s hlen hb => exec_enq_blocked hlen ((queueBlocked_iff _ s).mpr hb)⟩

/-- Settles O37: an idle transmitter's ring is empty, so the frame's symbols are all it then holds. -/
theorem enqQueuesTheEncodedFrame : Obligations.EnqQueuesTheEncodedFrame := by
  intro p s hr hactive hempty hlen hfits
  have hb : queueBlocked (7 + p.length) s = false := by
    rw [← Bool.not_eq_true, queueBlocked_iff, ringFree_of_empty hr hempty, hactive, hempty]
    simpa using hfits
  obtain ⟨r, hexec, hget, hbytes⟩ := exec_enq_accepted hr hlen hb
  obtain ⟨hp, hg, _⟩ := hr
  rw [ringBytes_of_empty hp hg hempty] at hbytes
  exact ⟨r, hexec, hget, hbytes⟩

/-- Settles O51. Turned away, `ENQ` leaves the ring; accepted, its loop stores two bytes for each byte of the frame. -/
theorem frameOfEnq : Obligations.FrameOfEnq := by
  intro p s t h
  obtain ⟨c, _, _, rfl⟩ | ⟨hdr, r, hc, _, hput, rfl⟩ := execEnq_cases h
  · exact ⟨rfl, fun _ _ => rfl⟩
  · have hget := ringPutAll_stored_get hput
    rw [serialize_of_create hc] at hput
    refine ⟨?_, fun a ha => ringPutAll_stored_read hput fun k hk => ha rfl k (by simpa using hk)⟩
    simp only [respond, ← hget]

/-! ## The slots still to drive (R52, R197) -/

/-- The `n` most significant bits of a byte, in the order they go on the line. -/
def topBits (n : Nat) (b : Byte) : List Bit := (List.range n).map fun k => b.getLsbD (7 - k)

@[simp] theorem length_topBits (n : Nat) (b : Byte) : (topBits n b).length = n := by simp [topBits]

theorem pendingSlots_eq (s : State) :
    pendingSlots s = topBits s.txBitsLeft.val s.txShift ++ (ringBytes s.cfg.nTx s.txRing).flatMap (topBits 8) := rfl

/-- A shift drives bit 7 and moves the other bits up. -/
theorem topBits_succ {n : Nat} (hn : n < 8) (b : Byte) : topBits (n + 1) b = b.getLsbD 7 :: topBits n (b <<< 1) := by
  rw [topBits, List.range_succ_eq_map, List.map_cons, List.map_map]
  refine congrArg (_ :: ·) (List.map_congr_left fun k hk => ?_)
  have hk : k < n := List.mem_range.mp hk
  simp only [Function.comp, Nat.succ_eq_add_one, BitVec.getLsbD_shiftLeft]
  rw [show 7 - k - 1 = 7 - (k + 1) by omega]
  simp [show 7 - k < 8 by omega, show ¬ 7 - k < 1 by omega]

theorem topBits_extractLsb' (w : Word16) (m : Nat) :
    topBits 8 (w.extractLsb' m 8) = (List.range 8).map fun k => w.getLsbD (m + (7 - k)) := by
  refine List.map_congr_left fun k _ => ?_
  simp [show 7 - k < 8 by omega]

/-- R52: the two ring bytes of a symbol hold its 16 slots in time order. -/
theorem flatMap_topBits_symbolBytes (w : Word16) : (symbolBytes w).flatMap (topBits 8) = symbolSlots w := by
  rw [symbolBytes, List.flatMap_cons, List.flatMap_singleton, topBits_extractLsb', topBits_extractLsb']
  rfl

theorem flatMap_topBits_frameSymbols (wire : List Byte) : (frameSymbols wire).flatMap (topBits 8) = wireSlots wire := by
  rw [frameSymbols, List.flatMap_assoc]
  exact List.flatMap_congr fun b _ => flatMap_topBits_symbolBytes (encodeByte b)

theorem ringBytes_eq_nil_iff {n : Nat} {r : Ring} (h : RingOk n r) : ringBytes n r = [] ↔ ringEmpty r = true := by
  have hlen := ringBytes_length h
  obtain ⟨hp, hg, _⟩ := h
  rw [← List.length_eq_zero_iff, hlen, ringCount_eq_zero hp hg]

theorem pendingSlots_eq_nil_iff {s : State} (hr : RingOk s.cfg.nTx s.txRing) :
    pendingSlots s = [] ↔ s.txBitsLeft = 0 ∧ ringEmpty s.txRing = true := by
  rw [← ringBytes_eq_nil_iff hr, ← List.length_eq_zero_iff, pendingSlots_eq, ← List.length_eq_zero_iff, Fin.ext_iff]
  simp [List.length_flatMap]

theorem pendingSlots_ne_nil_iff {s : State} (hr : RingOk s.cfg.nTx s.txRing) :
    pendingSlots s ≠ [] ↔ s.txBitsLeft ≠ 0 ∨ ringEmpty s.txRing = false := by
  rw [Ne, pendingSlots_eq_nil_iff hr, not_and_or, Bool.not_eq_true]

/-- The drive of a bit takes the first pending slot. -/
theorem driveBit_slots {s : State} (h : s.txBitsLeft ≠ 0) :
    (driveBit s).txLevel :: pendingSlots (driveBit s) = pendingSlots s := by
  have hbits : s.txBitsLeft.val = (s.txBitsLeft - 1).val + 1 := by
    rw [Fin.val_sub_one_of_ne_zero h]
    have := Fin.val_ne_zero_iff.mpr h
    omega
  rw [pendingSlots_eq s, hbits, topBits_succ (by omega)]
  rfl

/-- `driveNext` puts the first pending slot on the line, from the bits left or from the oldest ring byte, and keeps the rest. -/
theorem driveNext_slots {s : State} (hr : RingOk s.cfg.nTx s.txRing) (hmore : s.txBitsLeft ≠ 0 ∨ ringEmpty s.txRing = false) :
    ∃ t, driveNext s = .next t ∧ t.txLevel :: pendingSlots t = pendingSlots s := by
  by_cases h0 : s.txBitsLeft = 0
  · obtain ⟨b, hbytes, hdrive⟩ := driveNext_of_ring h0 hr (hmore.resolve_left (· h0))
    refine ⟨_, hdrive, (driveBit_slots (by decide : (8 : Fin 9) ≠ 0)).trans ?_⟩
    rw [pendingSlots_eq s, hbytes, h0]
    rfl
  · exact ⟨_, driveNext_of_bits h0, driveBit_slots h0⟩

/-! ## `START` and `TICK` (R194, R195) -/

theorem exec_start_ready {s : State} (h : startReady s = true) :
    exec .start s = driveNext (arm .tick { s with txActive := true }) := if_pos h

theorem exec_tick_collision {s : State} (ha : s.tickArmed = true) (hc : s.ls = .collision) :
    exec .tick s = .next (txAbort s) := (if_pos ha).trans (if_pos hc)

theorem exec_tick_end {s : State} (ha : s.tickArmed = true) (hc : s.ls ≠ .collision) (h0 : s.txBitsLeft = 0)
    (he : ringEmpty s.txRing = true) : exec .tick s = .next (txRelease s) :=
  (if_pos ha).trans ((if_neg hc).trans (if_pos ⟨h0, he⟩))

theorem exec_tick_drive {s : State} (ha : s.tickArmed = true) (hc : s.ls ≠ .collision)
    (hmore : s.txBitsLeft ≠ 0 ∨ ringEmpty s.txRing = false) : exec .tick s = driveNext s :=
  (if_pos ha).trans ((if_neg hc).trans (if_neg fun ⟨h0, he⟩ => by simp [h0, he] at hmore))

/-- Settles O41, the two branches of `TICK` that drive nothing. -/
theorem tickAbortsOrEnds : Obligations.TickAbortsOrEnds :=
  ⟨fun _ => exec_tick_collision, fun _ => exec_tick_end⟩

/-- Settles O39. Both clauses are `driveNext` behind the arming of the tick; with no bit left it takes the oldest ring byte. -/
theorem startDrivesTheFirstSlot : Obligations.StartDrivesTheFirstSlot := by
  refine ⟨fun s b rest hr hactive hls h0 hbytes => ?_, fun s hactive hls hne hbits => ?_⟩
  · have hne : ringEmpty s.txRing = false := by
      rw [← Bool.not_eq_true, ← ringBytes_eq_nil_iff hr, hbytes]
      exact List.cons_ne_nil b rest
    obtain ⟨b', hbytes', hdrive⟩ := driveNext_of_ring (s := arm .tick { s with txActive := true }) h0 hr hne
    cases hbytes.symm.trans hbytes'
    exact (exec_start_ready ((startReady_iff s).mpr ⟨hactive, hne, hls⟩)).trans hdrive
  · exact (exec_start_ready ((startReady_iff s).mpr ⟨hactive, hne, hls⟩)).trans
      (driveNext_of_bits (s := arm .tick { s with txActive := true }) hbits)

/-- Settles O40: `driveNext` in `TICK`'s third branch, with the frame of the drive path. -/
theorem tickDrivesTheNextSlot : Obligations.TickDrivesTheNextSlot := by
  intro s l rest hr harmed hls hpending
  have hmore := (pendingSlots_ne_nil_iff hr).mp (by simp [hpending])
  obtain ⟨t, hdrive, hslots⟩ := driveNext_slots hr hmore
  rw [hpending] at hslots
  obtain ⟨sh, n, l', g, rfl⟩ := driveNext_frame hdrive
  obtain ⟨rfl, hrest⟩ := List.cons.inj hslots
  exact ⟨sh, n, g, (exec_tick_drive harmed hls hmore).trans hdrive, hrest⟩

end Sys2Proof.Machine
end

section
/-! SUPPORT. The proofs of family 44_transmitter.md, one whole transmission in the event layer (R190, R194, R195, R199): each tick of a
frame takes its next slot, and the one on the last slot ends it. -/

namespace Sys2Proof.Machine

/-! ## Under way, and over -/

/-- The transmission that began in `s₀` has slot `k` of `frame` on the line and those after it to send. -/
structure OnSlot (s₀ : State) (frame : List Bit) (k : Nat) (s : State) : Prop where
  inv : EventInv s
  cfg : s.cfg = s₀.cfg
  aborted : s.txAborted = s₀.txAborted
  active : s.txActive = true
  slots : s.txLevel :: pendingSlots s = frame.drop k

/-- The transmission that began in `s₀` has ended, with no abort. -/
structure Released (s₀ s : State) : Prop where
  aborted : s.txAborted = s₀.txAborted
  inactive : s.txActive = false
  en : s.txEn = false
  level : s.txLevel = s₀.cfg.releasedLevel
  empty : ringEmpty s.txRing = true

/-- `s` can take and send the frame of payload `p` at once. -/
structure FreeFor (p : List Byte) (s : State) : Prop where
  inv : EventInv s
  inactive : s.txActive = false
  empty : ringEmpty s.txRing = true
  idle : s.ls = .idle
  length : p.length ≤ 255
  fits : 2 * (7 + p.length) ≤ s.cfg.nTx - 1

theorem OnSlot.armed {s₀ s : State} {frame : List Bit} {k : Nat} (h : OnSlot s₀ frame k s) : s.tickArmed = true :=
  h.inv.i3.trans h.active

theorem OnSlot.level {s₀ s : State} {frame : List Bit} {k : Nat} (h : OnSlot s₀ frame k s) :
    frame[k]? = some s.txLevel := by
  rw [← List.head?_drop, ← h.slots, List.head?_cons]

theorem OnSlot.lt_length {s₀ s : State} {frame : List Bit} {k : Nat} (h : OnSlot s₀ frame k s) : k < frame.length :=
  (List.getElem?_eq_some_iff.mp h.level).1

theorem OnSlot.pending {s₀ s : State} {frame : List Bit} {k : Nat} (h : OnSlot s₀ frame k s) :
    pendingSlots s = frame.drop (k + 1) := by
  rw [← List.tail_drop, ← h.slots, List.tail_cons]

/-! ## A tick in the frame -/

/-- With slots to send, a tick puts the next one on the line. -/
theorem OnSlot.tick {s₀ s : State} {frame : List Bit} {k : Nat} (h : OnSlot s₀ frame k s) (hls : s.ls ≠ .collision)
    (hk : k + 1 < frame.length) : ∃ t, exec .tick s = .next t ∧ OnSlot s₀ frame (k + 1) t := by
  have hpending := h.pending
  rw [List.drop_eq_getElem_cons hk] at hpending
  obtain ⟨sh, n, g, hexec, hrest⟩ := tickDrivesTheNextSlot s _ _ h.inv.txRing_ok h.armed hls hpending
  obtain ⟨hinv, _⟩ := exec_keepsInv .tick s _ h.inv hexec
  refine ⟨_, hexec, { h with inv := hinv, slots := ?_ }⟩
  rw [hrest, List.drop_eq_getElem_cons hk]

/-- On the last slot, a tick ends the transmission. -/
theorem OnSlot.tick_last {s₀ s : State} {frame : List Bit} {k : Nat} (h : OnSlot s₀ frame k s) (hls : s.ls ≠ .collision)
    (hk : k + 1 = frame.length) : exec .tick s = .next (txRelease s) ∧ Released s₀ (txRelease s) := by
  have hpending : pendingSlots s = [] := by rw [h.pending, List.drop_eq_nil_iff]; omega
  obtain ⟨h0, he⟩ := (pendingSlots_eq_nil_iff h.inv.txRing_ok).mp hpending
  exact ⟨exec_tick_end h.armed hls h0 he, h.aborted, rfl, rfl, congrArg Config.releasedLevel h.cfg, he⟩

/-! ## The start of a frame -/

/-- `START` with a message queued puts the first pending slot on the line. -/
theorem exec_start_onSlot {s : State} (h : EventInv s) (hr : startReady s = true) :
    ∃ t, exec .start s = .next t ∧ OnSlot s (pendingSlots s) 0 t ∧ t.txBitsLeft = 7 ∧ t.tickCnt = s.cfg.halfBit ∧
      t.ls = s.ls := by
  obtain ⟨hactive, hne, hls⟩ := (startReady_iff s).mp hr
  obtain ⟨_, _, h0⟩ := h.i4 hactive
  obtain ⟨b, _, _, _, hbytes⟩ := ringGet_spec h.txRing_ok hne
  obtain ⟨hexact, _⟩ := startDrivesTheFirstSlot
  have hexec := hexact s b _ h.txRing_ok hactive hls h0 hbytes
  obtain ⟨t, hdrive, hslots⟩ := driveNext_slots (s := arm .tick { s with txActive := true }) h.txRing_ok (.inr hne)
  cases hexec.symm.trans ((exec_start_ready hr).trans hdrive)
  obtain ⟨hinv, _⟩ := exec_keepsInv .start s _ h hexec
  exact ⟨_, hexec, ⟨hinv, rfl, rfl, rfl, hslots⟩, rfl, rfl, rfl⟩

/-- `ENQ` on a free station queues the slots of the frame, and `START` may follow. -/
theorem FreeFor.enq {p : List Byte} {s : State} (h : FreeFor p s) :
    ∃ t, exec (.enq p) s = .next t ∧ EventInv t ∧ startReady t = true ∧ t.cfg = s.cfg ∧ t.txAborted = s.txAborted ∧
      pendingSlots t = wireSlots (stationFrame s.cfg p) := by
  obtain ⟨r, hexec, _, hbytes⟩ :=
    enqQueuesTheEncodedFrame p s h.inv.txRing_ok h.inactive h.empty h.length h.fits
  obtain ⟨hinv, _⟩ := exec_keepsInv (.enq p) s _ h.inv hexec
  obtain ⟨_, _, h0⟩ := h.inv.i4 h.inactive
  have hslots : pendingSlots { s with txRing := r, resp := some ⟨.ok, .none⟩ } = wireSlots (stationFrame s.cfg p) := by
    rw [pendingSlots_eq, ← flatMap_topBits_frameSymbols, h0, hbytes]
    rfl
  have hqueued : ringEmpty r = false := by
    rw [← Bool.not_eq_true, ← ringBytes_eq_nil_iff hinv.txRing_ok]
    exact hbytes.trans_ne (List.cons_ne_nil _ _)
  exact ⟨_, hexec, hinv, (startReady_iff _).mpr ⟨h.inactive, hqueued, h.idle⟩, rfl, rfl, hslots⟩

/-- After `ENQ` and `START` the first slot of the frame is on the line. -/
theorem FreeFor.enq_start {p : List Byte} {s : State} (h : FreeFor p s) :
    ∃ u v, exec (.enq p) s = .next u ∧ startReady u = true ∧ exec .start u = .next v ∧
      OnSlot s (wireSlots (stationFrame s.cfg p)) 0 v ∧ v.txBitsLeft = 7 ∧ v.tickCnt = s.cfg.halfBit ∧ v.ls = .idle := by
  obtain ⟨u, henq, hinv, hready, hcfg, hab, hslots⟩ := h.enq
  obtain ⟨v, hstart, hon, hbits, hcnt, hls⟩ := exec_start_onSlot hinv hready
  obtain ⟨_, _, hidle⟩ := (startReady_iff u).mp hready
  rw [hslots] at hon
  exact ⟨u, v, henq, hready, hstart, { hon with cfg := hon.cfg.trans hcfg, aborted := hon.aborted.trans hab }, hbits,
    hcfg ▸ hcnt, hls.trans hidle⟩

/-! ## The whole frame (R199) -/

/-- The slots go on the line in order, one for each tick. -/
theorem OnSlot.ticks {s₀ s : State} {frame : List Bit} (h : OnSlot s₀ frame 0 s) (hls : s.ls ≠ .collision) {k : Nat}
    (hk : k < frame.length) :
    ∃ t, execAll (List.replicate k .tick) s = .next t ∧ OnSlot s₀ frame k t ∧ t.ls ≠ .collision := by
  induction k with
  | zero => exact ⟨s, rfl, h, hls⟩
  | succ k ih =>
    obtain ⟨t, hrun, ht, htls⟩ := ih (by omega)
    obtain ⟨u, hexec, hu⟩ := ht.tick htls hk
    refine ⟨u, ?_, hu, ?_⟩
    · rw [List.replicate_succ', execAll_append, hrun]
      simp [execAll, hexec]
    · rwa [exec_ls_eq (i := .tick) (fun _ => nofun) nofun hexec]

/-- Settles O42: one slot for each tick after `START`, by `OnSlot.ticks`, and the tick on the last slot releases the line. -/
theorem transmissionSendsTheFrame : Obligations.TransmissionSendsTheFrame := by
  intro s p hinv hactive hempty hls hlen hfits
  obtain ⟨hev, _⟩ := (inv_iff s).mp hinv
  obtain ⟨u, v, henq, _, hstart, hv, _, _, hidle⟩ := FreeFor.enq_start ⟨hev, hactive, hempty, hls, hlen, hfits⟩
  have hrun : ∀ is, execAll (.enq p :: .start :: is) s = execAll is v := by
    intro is
    simp [execAll, henq, hstart]
  have hcount : (wireSlots (stationFrame s.cfg p)).length = 16 * (7 + p.length) := by
    rw [length_wireSlots, length_stationFrame]
  have hfree : v.ls ≠ .collision := by simp [hidle]
  refine ⟨fun k hk => ?_, ?_⟩
  · obtain ⟨t, hticks, ht, _⟩ := hv.ticks hfree (hcount.symm ▸ hk)
    exact ⟨t, (hrun _).trans hticks, ht.active, ht.inv.i5 ht.active, ht.level⟩
  · obtain ⟨t, hticks, ht, htls⟩ := hv.ticks hfree (k := 16 * (7 + p.length) - 1) (by omega)
    obtain ⟨hend, hrel⟩ := ht.tick_last htls (by omega)
    refine ⟨txRelease t, ?_, hrel.inactive, hrel.en, hrel.level, hrel.empty, hrel.aborted⟩
    rw [hrun, show 16 * (7 + p.length) = 16 * (7 + p.length) - 1 + 1 by omega, List.replicate_succ', execAll_append, hticks]
    simp [execAll, hend]

/-- Settles O43. The abort's writes are listed; the state that follows is free for any payload that fits, so its frame is queued and
started as any other. -/
theorem resubmissionStartsAfresh : Obligations.ResubmissionStartsAfresh := by
  intro s hinv hactive hls
  obtain ⟨hev, _⟩ := (inv_iff s).mp hinv
  refine ⟨_, exec_tick_collision (hev.i3.trans hactive) hls, ringEmpty_clear s.txRing, rfl, rfl, rfl, ?_⟩
  intro u p hinvu hcfg hring hinactive hidle hlen hfits
  obtain ⟨hevu, _⟩ := (inv_iff u).mp hinvu
  have hempty : ringEmpty u.txRing = true := hring ▸ ringEmpty_clear s.txRing
  obtain ⟨w, v, henq, _, hstart, hv, hbits, _, _⟩ := FreeFor.enq_start ⟨hevu, hinactive, hempty, hidle, hlen, hfits⟩
  refine ⟨v, ?_, hv.active, hbits, ?_, ?_⟩
  · simp [execAll, henq, hstart]
  · rw [hv.pending, List.drop_one]
  · rw [List.head?_eq_getElem?, hv.level]

end Sys2Proof.Machine
end

section
/-! SUPPORT. The proofs of family 44_transmitter.md, the cycle layer: every cycle of a station with the invariants goes on (R302), and a
frame's slots follow one another every `H` cycles (R199, R252, R253). -/

namespace Sys2Proof.Machine

/-! ## Every admitted instruction goes on -/

theorem EventInv.exec_tick_next {s : State} (h : EventInv s) (ha : s.tickArmed = true) : ∃ t, exec .tick s = .next t := by
  by_cases hc : s.ls = .collision
  · exact ⟨_, exec_tick_collision ha hc⟩
  · by_cases hend : s.txBitsLeft = 0 ∧ ringEmpty s.txRing = true
    · exact ⟨_, exec_tick_end ha hc hend.1 hend.2⟩
    · rw [not_and_or, Bool.not_eq_true] at hend
      obtain ⟨t, hdrive, _⟩ := driveNext_slots h.txRing_ok hend
      exact ⟨t, (exec_tick_drive ha hc hend).trans hdrive⟩

theorem EventInv.exec_enq_next {s : State} (h : EventInv s) (p : List Byte) : ∃ t, exec (.enq p) s = .next t := by
  by_cases hlen : p.length ≤ 255
  · rcases hb : queueBlocked (7 + p.length) s with _ | _
    · obtain ⟨r, hexec, _⟩ := exec_enq_accepted h.txRing_ok hlen hb
      exact ⟨_, hexec⟩
    · exact ⟨_, exec_enq_blocked hlen hb⟩
  · exact ⟨_, exec_enq_tooLarge (Nat.not_le.mp hlen) s⟩

theorem EventInv.exec_rxget_next {s : State} (h : EventInv s) : ∃ t, exec .rxget s = .next t := by
  rcases he : ringEmpty s.rxRing with _ | _
  · obtain ⟨b, r, hexec, _⟩ := exec_rxget_byte h.rxRing_ok he
    exact ⟨_, hexec⟩
  · exact ⟨_, exec_rxget_empty he⟩

theorem exec_confirm_next (hdr : Header) (s : State) : ∃ t, exec (.confirm hdr) s = .next t := by
  by_cases hw : hdr.wf = true
  · obtain ⟨r, hr⟩ := exec_confirm_responds hw
    exact ⟨_, hr s⟩
  · exact ⟨_, if_neg hw⟩

/-- No ring fault is met where the rings are in form, and each other fault is an admission that fails. -/
theorem EventInv.exec_next {i : Instr} {s : State} (h : EventInv s) (ha : admitted i s = true) : ∃ t, exec i s = .next t := by
  cases i with
  | edge l =>
    obtain ⟨hput, _⟩ := h.rxRing_ok
    exact rxEdge_next l (s := monitorEdge l s) hput
  | idleTo =>
    by_cases hl : s.lastLevel = s.cfg.releasedLevel
    · exact ⟨_, exec_idleTo_released ha hl⟩
    · exact ⟨_, exec_idleTo_collision ha hl⟩
  | hbTo => exact ⟨_, if_pos ha⟩
  | tick => exact h.exec_tick_next ha
  | start =>
    obtain ⟨t, hexec, _⟩ := exec_start_onSlot h ha
    exact ⟨t, hexec⟩
  | enq p => exact h.exec_enq_next p
  | rxget => exact h.exec_rxget_next
  | clrf m =>
    by_cases hm : clrfMaskOk m = true
    · exact ⟨_, if_pos hm⟩
    · exact ⟨_, if_neg hm⟩
  | status | crc8 | encode => exact ⟨_, rfl⟩
  | frame src dest ce p =>
    obtain ⟨r, hr⟩ := exec_frame_responds src dest ce p
    exact ⟨_, hr s⟩
  | parse buf =>
    obtain ⟨r, hr⟩ := exec_parse_responds buf
    exact ⟨_, hr s⟩
  | confirm hdr => exact exec_confirm_next hdr s

/-! ## Every cycle goes on -/

theorem EventInv.execWhere_next {s : State} (h : EventInv s) {i : Instr} {g : Bool} (hg : g = true → admitted i s = true) :
    ∃ t, (if g then exec i s else .next s) = .next t := by
  cases g with
  | true => exact h.exec_next (hg rfl)
  | false => exact ⟨s, rfl⟩

theorem EventInv.edgePhase_next {s : State} (h : EventInv s) (l : Bit) : ∃ t, edgePhase l s = .next t := by
  by_cases hl : l = s.prevLevel
  · exact ⟨s, if_pos hl⟩
  · rw [edgePhase, if_neg hl]
    exact EventInv.exec_next (i := .edge l) (s := { s with prevLevel := l }) { h with } rfl

theorem EventInv.tickPhase_next {s : State} (h : EventInv s) (d : Bool) : ∃ t, tickPhase d s = .next t := by
  by_cases hd : (d && s.tickArmed) = true
  · obtain ⟨u, hu⟩ := h.exec_tick_next (Bool.and_eq_true_iff.mp hd).2
    exact ⟨reloadTick u, by rw [tickPhase, if_pos hd, hu]; rfl⟩
  · exact ⟨s, if_neg hd⟩

/-- R75, R258: a legal word has an event's `OP` exactly where it stands for an event. -/
theorem isEventWord_of_decode {c : Command} {i : Instr} (h : decode c = .ok i) : isEventWord c.word = i.isEvent := by
  obtain ⟨_, rfl⟩ := encodeDecodeRoundTrip c i h
  rw [isEventWord, opOf_encode]
  cases i <;> rfl

theorem admitted_of_command {i : Instr} (hi : i.isEvent = false) (s : State) : admitted i s = true := by
  cases i with
  | edge | idleTo | hbTo | tick | start => cases hi
  | enq | rxget | status | clrf | crc8 | encode | frame | parse | confirm => rfl

theorem execute_event {c : Command} {i : Instr} (hd : decode c = .ok i) (hi : i.isEvent = true) (s : State) :
    execute c s = .next (refuse s) := if_pos ((isEventWord_of_decode hd).trans hi)

theorem execute_command {c : Command} {i : Instr} (hd : decode c = .ok i) (hi : i.isEvent = false) (s : State) :
    execute c s = exec i s := by
  simp [execute, isEventWord_of_decode hd, hi, hd]

theorem EventInv.execute_next {s : State} (h : EventInv s) (c : Command) : ∃ t, execute c s = .next t := by
  rcases hd : decode c with e | i
  · exact ⟨_, execute_illegal hd s⟩
  · rcases hi : i.isEvent with _ | _
    · rw [execute_command hd hi]
      exact h.exec_next (admitted_of_command hi s)
    · exact ⟨_, execute_event hd hi s⟩

theorem EventInv.hostPhase_next {s : State} (h : EventInv s) (cmd : Option Command) : ∃ t, hostPhase cmd s = .next t := by
  cases cmd with
  | none => exact ⟨s, rfl⟩
  | some c => exact h.execute_next c

/-- R253: each of the steps 2 to 7 goes on and keeps what the next one needs. -/
theorem EventInv.runPhases_next {s : State} (h : EventInv s) (l : Bit) (cmd : Option Command) :
    ∃ t, runPhases l cmd s = .next t := by
  obtain ⟨s1, h1⟩ := h.edgePhase_next l
  obtain ⟨i1, _⟩ := edgePhase_keepsInv _ _ _ h h1
  obtain ⟨s2, h2⟩ : ∃ t, idlePhase (due .idle s && l == s.prevLevel) s1 = .next t :=
    i1.execWhere_next fun hg => (Bool.and_eq_true_iff.mp hg).2
  obtain ⟨i2, _⟩ := idlePhase_keepsInv _ _ _ i1 h2
  obtain ⟨s3, h3⟩ : ∃ t, hbPhase (due .hb s && l == s.prevLevel) s2 = .next t :=
    i2.execWhere_next fun hg => (Bool.and_eq_true_iff.mp hg).2
  obtain ⟨i3, _⟩ := hbPhase_keepsInv _ _ _ i2 h3
  obtain ⟨s4, h4⟩ := i3.tickPhase_next (due .tick s)
  obtain ⟨i4, _⟩ := tickPhase_keepsInv _ _ _ i3 h4
  obtain ⟨s5, h5⟩ := i4.hostPhase_next cmd
  obtain ⟨i5, _⟩ := hostPhase_keepsInv _ _ _ i4 h5
  obtain ⟨t, h6⟩ : ∃ t, startPhase s5 = .next t := i5.execWhere_next id
  exact ⟨t, by simp only [runPhases, h1, h2, h3, h4, h5, h6, andThen_next]⟩

theorem cycle_next {s : State} (h : Inv s) (c : CycleInput) : ∃ t, cycle c s = .next t := by
  obtain ⟨hev, _⟩ := (inv_iff s).mp h
  unfold cycle
  split
  · exact ⟨_, rfl⟩
  · exact EventInv.runPhases_next (s := countTimers { s with resp := none }) { hev with } _ _

theorem cycles_next {s : State} (h : Inv s) (cs : List CycleInput) : ∃ t, cycles cs s = .next t := by
  induction cs generalizing s with
  | nil => exact ⟨s, rfl⟩
  | cons c cs ih =>
    obtain ⟨u, hu⟩ := cycle_next h c
    obtain ⟨t, ht⟩ := ih (cycle_inv h hu)
    exact ⟨t, by rw [cycles, hu, andThen_next, ht]⟩

theorem cycles_inv {cs : List CycleInput} {s t : State} (h : Inv s) (he : cycles cs s = .next t) : Inv t := by
  induction cs generalizing s with
  | nil => cases he; exact h
  | cons c cs ih =>
    obtain ⟨u, hu, hrun⟩ := andThen_eq_next.1 he
    exact ih (cycle_inv h hu) hrun

/-! ## The steps before the tick leave the transmitter alone (R253) -/

/-- A state without the fields of the line monitor, the receiver and the edge detector. -/
def txView (s : State) : State :=
  { s with
    ls := .idle, lastLevel := false, idleArmed := false, idleCnt := 0, expData := false, rxCursor := 0, rxByte := 0#8,
    hbArmed := false, hbCnt := 0, rxOverflow := false, rxRing := Ring.reset, prevLevel := false }

theorem edgePhase_txView {l : Bit} {s t : State} (h : edgePhase l s = .next t) : txView t = txView s := by
  unfold edgePhase at h
  split at h
  · cases h; rfl
  · obtain ⟨hframe, _⟩ := frameOfEdge _ _ _ h
    rw [hframe]
    rfl

theorem edgePhase_no_edge {l : Bit} {s : State} (h : l = s.prevLevel) : edgePhase l s = .next s := if_pos h

theorem idlePhase_disarmed {d : Bool} {s : State} (h : s.idleArmed = false) : idlePhase d s = .next s := by
  simp [idlePhase, h]

theorem idlePhase_txView {d : Bool} {s t : State} (h : idlePhase d s = .next t) : txView t = txView s := by
  unfold idlePhase at h
  split at h
  · obtain ⟨_, ⟨_, rfl⟩ | ⟨_, rfl⟩⟩ := execIdleTo_cases h <;> rfl
  · cases h; rfl

theorem hbPhase_cases {d : Bool} {s t : State} (h : hbPhase d s = .next t) :
    t = s ∨ t = { s with hbArmed := false, expData := true } := by
  unfold hbPhase at h
  split at h
  · exact .inr (execHbTo_cases h).2
  · cases h; exact .inl rfl

theorem hbPhase_txView {d : Bool} {s t : State} (h : hbPhase d s = .next t) : txView t = txView s ∧ t.ls = s.ls := by
  obtain rfl | rfl := hbPhase_cases h <;> exact ⟨rfl, rfl⟩

theorem OnSlot.of_txView {s₀ s t : State} {frame : List Bit} {k : Nat} (h : OnSlot s₀ frame k s)
    (hv : txView t = txView s) (hinv : EventInv t) : OnSlot s₀ frame k t where
  inv := hinv
  cfg := (congrArg State.cfg hv).trans h.cfg
  aborted := (congrArg State.txAborted hv).trans h.aborted
  active := (congrArg State.txActive hv).trans h.active
  slots := (congrArg (fun s => s.txLevel :: pendingSlots s) hv).trans h.slots

/-! ## The tick and the start of a cycle -/

theorem startPhase_not_ready {s : State} (h : startReady s = false) : startPhase s = .next s := by
  simp [startPhase, h]

theorem startPhase_ls {s t : State} (h : startPhase s = .next t) : t.ls = s.ls := by
  unfold startPhase at h
  split at h
  · exact exec_ls_eq (i := .start) (fun _ => nofun) nofun h
  · cases h; rfl

theorem tickPhase_true {s : State} (ha : s.tickArmed = true) :
    tickPhase true s = andThen (exec .tick s) fun s => .next (reloadTick s) := by
  simp [tickPhase, ha]

theorem tickPhase_ls {d : Bool} {s t : State} (h : tickPhase d s = .next t) : t.ls = s.ls := by
  unfold tickPhase at h
  split at h
  · obtain ⟨u, hu, ht⟩ := andThen_eq_next.1 h
    cases ht
    rw [reloadTick_ls, exec_ls_eq (i := .tick) (fun _ => nofun) nofun hu]
  · cases h; rfl

/-- The state after step 1 of a cycle. -/
def counted (s : State) : State := countTimers { s with resp := none }

theorem due_tick_counted {s : State} (ha : s.tickArmed = true) : due .tick (counted s) = (s.tickCnt - 1 == 0) := by
  simp [due, counted, ha]

/-- A cycle that is no reset, from the tick on: what steps 1 to 4 leave to it. -/
theorem cycle_cases {c : CycleInput} {s t : State} (hrst : c.rst = false) (hinv : Inv s) (h : cycle c s = .next t) :
    ∃ u v w, EventInv u ∧ txView u = txView (counted s) ∧
      (lineIn c.line s = s.prevLevel → s.idleArmed = false → u.ls = s.ls) ∧
      tickPhase (due .tick (counted s)) u = .next v ∧ hostPhase c.cmd v = .next w ∧ startPhase w = .next t := by
  obtain ⟨hev, _⟩ := (inv_iff s).mp hinv
  rw [cycle, hrst] at h
  obtain ⟨s1, s2, s3, s4, s5, h1, h2, h3, h4, h5, h6⟩ := runPhases_cases h
  obtain ⟨i1, _⟩ := edgePhase_keepsInv _ _ _ (show EventInv (counted s) from { hev with }) h1
  obtain ⟨i2, _⟩ := idlePhase_keepsInv _ _ _ i1 h2
  obtain ⟨i3, _⟩ := hbPhase_keepsInv _ _ _ i2 h3
  obtain ⟨hview, hls⟩ := hbPhase_txView h3
  refine ⟨s3, s4, s5, i3, (hview.trans (idlePhase_txView h2)).trans (edgePhase_txView h1), fun hline hidle => ?_, h4, h5, h6⟩
  cases (edgePhase_no_edge (s := counted s) hline).symm.trans h1
  cases (idlePhase_disarmed (s := counted s) hidle).symm.trans h2
  exact hls

/-! ## A frame in the cycle layer (R199) -/

theorem OnSlot.no_start {s₀ s : State} {frame : List Bit} {k : Nat} (h : OnSlot s₀ frame k s) : startPhase s = .next s :=
  startPhase_not_ready (startReady_eq_false (.inl h.active))

theorem Released.no_start {s₀ s : State} (h : Released s₀ s) : startPhase s = .next s :=
  startPhase_not_ready (startReady_eq_false (.inr (.inl h.empty)))

/-- R259 for the tick of a frame. -/
theorem OnSlot.tickCnt_range {s₀ s : State} {frame : List Bit} {k : Nat} (h : OnSlot s₀ frame k s) (hinv : Inv s) :
    1 ≤ s.tickCnt ∧ s.tickCnt ≤ s₀.cfg.halfBit := by
  obtain ⟨_, htimers⟩ := (inv_iff s).mp hinv
  rw [← h.cfg]
  exact htimers .tick h.armed

/-- A due tick puts the next slot on the line for a whole period, or ends the frame. -/
theorem OnSlot.due_tick {s₀ s t : State} {frame : List Bit} {k : Nat} (h : OnSlot s₀ frame k s)
    (hls : s.ls ≠ .collision) (he : tickPhase true s = .next t) :
    (OnSlot s₀ frame (k + 1) t ∧ t.tickCnt = s₀.cfg.halfBit) ∨ (k + 1 = frame.length ∧ Released s₀ t) := by
  rw [tickPhase_true h.armed] at he
  obtain ⟨u, hu, ht⟩ := andThen_eq_next.1 he
  cases ht
  by_cases hk : k + 1 < frame.length
  · obtain ⟨u', hu', hon⟩ := h.tick hls hk
    cases hu.symm.trans hu'
    rw [reloadTick, if_pos hon.armed]
    exact .inl ⟨{ hon with inv := { hon.inv with } }, congrArg Config.halfBit hon.cfg⟩
  · have hlast : k + 1 = frame.length := by have := h.lt_length; omega
    obtain ⟨hu', hrel⟩ := h.tick_last hls hlast
    cases hu.symm.trans hu'
    exact .inr ⟨hlast, hrel⟩

/-- `j` cycles after its start the transmission that began in `s₀` sends the slot that ends at the next multiple of `H`. -/
def SendsAt (s₀ : State) (frame : List Bit) (j : Nat) (s : State) : Prop :=
  ∃ k, OnSlot s₀ frame k s ∧ j + s.tickCnt = (k + 1) * s₀.cfg.halfBit

theorem SendsAt.next_cycle {s₀ s t : State} {frame : List Bit} {j : Nat} {c : CycleInput} (h : SendsAt s₀ frame j s)
    (hinv : Inv s) (hrst : c.rst = false) (hcmd : c.cmd = none) (he : cycle c s = .next t) (hls : t.ls ≠ .collision) :
    SendsAt s₀ frame (j + 1) t ∨ (j + 1 = frame.length * s₀.cfg.halfBit ∧ Released s₀ t) := by
  obtain ⟨k, hk, hj⟩ := h
  obtain ⟨u, v, w, hu, hview, _, htick, hhost, hstart⟩ := cycle_cases hrst hinv he
  rw [hcmd] at hhost
  cases hhost
  have hon : OnSlot s₀ frame k u := OnSlot.of_txView (s := counted s) { hk with inv := { hk.inv with } } hview hu
  have huls : u.ls ≠ .collision := by rwa [← tickPhase_ls htick, ← startPhase_ls hstart]
  have hcnt : u.tickCnt = s.tickCnt - 1 := (congrArg State.tickCnt hview).trans (if_pos hk.armed)
  obtain ⟨hpos, _⟩ := hk.tickCnt_range hinv
  rw [due_tick_counted hk.armed] at htick
  by_cases hdue : s.tickCnt = 1
  · rw [hdue] at htick hj
    obtain ⟨hon', hcnt'⟩ | ⟨hlast, hrel⟩ := hon.due_tick huls htick
    · cases hon'.no_start.symm.trans hstart
      exact .inl ⟨k + 1, hon', by rw [hj, hcnt', Nat.succ_mul (k + 1)]⟩
    · cases hrel.no_start.symm.trans hstart
      exact .inr ⟨hlast ▸ hj, hrel⟩
  · rw [show (s.tickCnt - 1 == 0) = false from beq_eq_false_iff_ne.mpr (by omega)] at htick
    cases htick
    cases hon.no_start.symm.trans hstart
    exact .inl ⟨k, hon, by omega⟩

/-- The slot on the line is the one of the whole periods gone by. -/
theorem SendsAt.level {s₀ s : State} {frame : List Bit} {j : Nat} (h : SendsAt s₀ frame j s) (hinv : Inv s) :
    s.txActive = true ∧ s.txEn = true ∧ frame[j / s₀.cfg.halfBit]? = some s.txLevel := by
  obtain ⟨k, hk, hj⟩ := h
  obtain ⟨hpos, hle⟩ := hk.tickCnt_range hinv
  have hdiv : j / s₀.cfg.halfBit = k := by
    rw [Nat.succ_mul] at hj
    exact Nat.div_eq_of_lt_le (by omega) (by rw [Nat.succ_mul]; omega)
  exact ⟨hk.active, hk.inv.i5 hk.active, hdiv ▸ hk.level⟩

theorem SendsAt.lt_total {s₀ s : State} {frame : List Bit} {j : Nat} (h : SendsAt s₀ frame j s) (hinv : Inv s) :
    j < frame.length * s₀.cfg.halfBit := by
  obtain ⟨k, hk, hj⟩ := h
  obtain ⟨hpos, _⟩ := hk.tickCnt_range hinv
  have hend : (k + 1) * s₀.cfg.halfBit ≤ frame.length * s₀.cfg.halfBit := Nat.mul_le_mul_right _ hk.lt_length
  omega

theorem noCollision_cons {c : CycleInput} {cs : List CycleInput} {s t : State} (h : noCollision (c :: cs) s = true)
    (hc : cycle c s = .next t) : t.ls ≠ .collision ∧ noCollision cs t = true := by
  simpa [noCollision, hc] using h

/-- Cycles with no command and no COLLISION, up to the release. -/
theorem SendsAt.run {s₀ s t : State} {frame : List Bit} {j : Nat} {cs : List CycleInput} (h : SendsAt s₀ frame j s)
    (hinv : Inv s) (hquiet : ∀ c ∈ cs, c.rst = false ∧ c.cmd = none) (hfree : noCollision cs s = true)
    (he : cycles cs s = .next t) :
    (j + cs.length < frame.length * s₀.cfg.halfBit → SendsAt s₀ frame (j + cs.length) t) ∧
      (j + cs.length = frame.length * s₀.cfg.halfBit → Released s₀ t) := by
  induction cs generalizing s j with
  | nil =>
    cases he
    exact ⟨fun _ => h, fun hj => absurd (h.lt_total hinv) hj.not_lt⟩
  | cons c cs ih =>
    obtain ⟨u, hu, hrun⟩ := andThen_eq_next.1 he
    obtain ⟨⟨hrst, hcmd⟩, hrest⟩ := List.forall_mem_cons.mp hquiet
    obtain ⟨huls, hufree⟩ := noCollision_cons hfree hu
    have hlen : j + (c :: cs).length = j + 1 + cs.length := by rw [List.length_cons]; omega
    rw [hlen]
    obtain hnext | ⟨hend, hrel⟩ := h.next_cycle hinv hrst hcmd hu huls
    · exact ih hnext (cycle_inv hinv hu) hrest hufree hrun
    · refine ⟨fun hlt => absurd hend (by omega), fun heq => ?_⟩
      obtain rfl := List.length_eq_zero_iff.mp (show cs.length = 0 by omega)
      cases hrun
      exact hrel

/-! ## The cycle of the `ENQ` (R253) -/

theorem decode_enq (p : List Byte) : decode ⟨0x0010#16, .bytes p⟩ = .ok (.enq p) := by
  have hword : decodeWord 0x0010#16 = .ok .enq := by decide
  simp only [decode, hword, attach, takesBytes]

theorem execute_enq (p : List Byte) (s : State) : execute ⟨0x0010#16, .bytes p⟩ s = exec (.enq p) s :=
  execute_command (decode_enq p) rfl s

/-- On an idle line `ENQ` in step 6 and `START` in step 7 begin the frame, with a whole period for its first slot. -/
theorem cycle_enq_sendsAt {s t : State} {p : List Byte} {line : LineSource} (hinv : Inv s) (h : FreeFor p s)
    (hline : lineIn line s = s.prevLevel) (he : cycle ⟨false, line, some ⟨0x0010#16, .bytes p⟩⟩ s = .next t) :
    SendsAt s (wireSlots (stationFrame s.cfg p)) 0 t := by
  obtain ⟨u, v, w, hu, hview, hidle, htick, hhost, hstart⟩ := cycle_cases rfl hinv he
  have hcfg : u.cfg = s.cfg := (congrArg State.cfg hview :)
  have hab : u.txAborted = s.txAborted := (congrArg State.txAborted hview :)
  have hidleArmed : s.idleArmed = false := by
    rw [← Bool.not_eq_true]
    exact fun ha => nomatch h.idle.symm.trans (h.inv.i1 ha)
  have htickArmed : s.tickArmed = false := h.inv.i3.trans h.inactive
  rw [show due .tick (counted s) = false by simp [due, counted, htickArmed]] at htick
  cases htick
  have hfree : FreeFor p u :=
    { inv := hu
      inactive := (congrArg State.txActive hview :).trans h.inactive
      empty := (congrArg (fun s => ringEmpty s.txRing) hview :).trans h.empty
      idle := (hidle hline hidleArmed).trans h.idle
      length := h.length
      fits := hcfg.symm ▸ h.fits }
  obtain ⟨u', v', henq, hready, hstart', hon, _, hcnt, _⟩ := hfree.enq_start
  cases (henq.symm.trans (execute_enq p u).symm).trans hhost
  rw [startPhase, if_pos hready] at hstart
  cases hstart'.symm.trans hstart
  rw [hcfg] at hon hcnt
  exact ⟨0, { hon with cfg := hon.cfg.trans hcfg, aborted := hon.aborted.trans hab }, by rw [hcnt]; omega⟩

/-- Settles O57. The cycle of the `ENQ` begins the frame, and the cycles after it go on from slot to slot as the tick's count runs. -/
theorem frameTiming : Obligations.FrameTiming := by
  intro s p line cs hinv hactive hempty hls hlen hfits hline hquiet hfree
  obtain ⟨hev, _⟩ := (inv_iff s).mp hinv
  obtain ⟨u, hu⟩ := cycle_next hinv ⟨false, line, some ⟨0x0010#16, .bytes p⟩⟩
  have hinvu := cycle_inv hinv hu
  obtain ⟨t, ht⟩ := cycles_next hinvu cs
  obtain ⟨_, hfreeu⟩ := noCollision_cons hfree hu
  have hsends := cycle_enq_sendsAt hinv ⟨hev, hactive, hempty, hls, hlen, hfits⟩ hline hu
  obtain ⟨hslot, hend⟩ := hsends.run hinvu hquiet hfreeu ht
  rw [length_wireSlots, length_stationFrame, Nat.zero_add] at hslot hend
  refine ⟨t, by rw [cycles, hu, andThen_next, ht], fun hlt => (hslot hlt).level (cycles_inv hinvu ht), fun heq => ?_⟩
  have hrel := hend heq
  exact ⟨hrel.inactive, hrel.en, hrel.level, hrel.aborted⟩

end Sys2Proof.Machine
end

section
/-! SUPPORT. The proofs of family 45_receiver.md, the event layer: what the eighth data edge, the half-bit timeout and `RXGET` do (R222 to
R224, R226), and that the events of a byte string decode to it (R228). -/

namespace Sys2Proof.Machine

/-! ## The half-bit timeout and `RXGET` (R224, R226) -/

/-- Settles O22: the admitted branch. -/
theorem halfBitTimeoutExpectsData : Obligations.HalfBitTimeoutExpectsData := fun _ harmed => if_pos harmed

/-- Settles O24: an empty ring raises `EMPTY`, and a ring that holds `b` first gives it up. -/
theorem rxgetReadsTheOldestByte : Obligations.RxgetReadsTheOldestByte := by
  refine ⟨fun s he => exec_rxget_empty he, fun s b rest hok hbytes => ?_⟩
  have he : ringEmpty s.rxRing = false := by
    rw [← Bool.not_eq_true, ← ringBytes_eq_nil_iff hok, hbytes]
    exact List.cons_ne_nil b rest
  obtain ⟨b', hget, _, _, hbytes'⟩ := ringGet_spec hok he
  obtain ⟨rfl, hrest⟩ := List.cons.inj (hbytes.symm.trans hbytes')
  exact ⟨by simp only [exec, execRxget, he, hget]; rfl, hrest.symm⟩

/-! ## The eighth data edge (R222, R223) -/

theorem exec_edge_last {l : Bit} {s : State} (he : s.expData = true) (hc : s.rxCursor = 7) :
    exec (.edge l) s = andThen (pushByte { monitorEdge l s with rxByte := setBit s.rxByte 0 l }) fun u =>
      .next { u with rxCursor := 0, expData := false, hbArmed := true, hbCnt := u.cfg.tHb } :=
  rxEdge_last (s := monitorEdge l s) l he hc

theorem getLsbD_setBit_zero (v : Byte) (l : Bit) : ∀ k < 8, (setBit v 0 l).getLsbD k = if k = 0 then l else v.getLsbD k :=
  fun k hk => by simp only [getLsbD_setBit, hk, and_true]

theorem exec_edge_ringOk {l : Bit} {s t : State} (hok : RingOk s.cfg.nRx s.rxRing) (h : exec (.edge l) s = .next t) :
    RingOk t.cfg.nRx t.rxRing := by
  obtain ⟨_, _, _, _, hr, rfl⟩ := rxEdge_effect (s := monitorEdge l s) hok (execEdge_cases h)
  exact hr

/-- Settles O20: the byte that the edge completes goes into a ring with room. -/
theorem lastDataEdgeDeliversTheByte : Obligations.LastDataEdgeDeliversTheByte := by
  intro l s hok he hc hroom
  have hfull : ringFull s.cfg.nRx s.rxRing = false := by
    obtain ⟨hput, hget, _⟩ := hok
    rw [← Bool.not_eq_true, ringFull_iff hput hget]
    exact Nat.ne_of_gt hroom
  obtain ⟨r, hstored, _, hget, _, hbuf, _, hbytes⟩ := ringPut_spec hok hfull (setBit s.rxByte 0 l)
  refine ⟨setBit s.rxByte 0 l, r, getLsbD_setBit_zero _ _, hbytes, hget, fun a ha => ?_, ?_⟩
  · rw [hbuf, read_write_ne _ _ ha]
  · rw [exec_edge_last he hc, pushByte]
    simp only [monitorEdge_cfg, monitorEdge_rxRing, hstored]
    rfl

/-- Settles O21: the byte that the edge completes meets a full ring. -/
theorem overflowDropsTheNewestByte : Obligations.OverflowDropsTheNewestByte := by
  intro l s hput hget he hc hfree
  refine ⟨setBit s.rxByte 0 l, getLsbD_setBit_zero _ _, ?_⟩
  rw [exec_edge_last he hc, pushByte]
  simp only [monitorEdge_cfg, monitorEdge_rxRing, ringPut_full ((ringFull_iff hput hget).mpr hfree)]
  rfl

/-! ## The bits sampled so far -/

theorem topBits_succ' (n : Nat) (b : Byte) : topBits (n + 1) b = topBits n b ++ [b.getLsbD (7 - n)] := by
  simp [topBits, List.range_succ]

/-- The sampling of one more bit (R222). -/
theorem topBits_sampled {c : Nat} (hc : c < 8) {l : Bit} {v w : Byte}
    (hw : ∀ k < 8, w.getLsbD k = if k = 7 - c then l else v.getLsbD k) : topBits (c + 1) w = topBits c v ++ [l] := by
  rw [topBits_succ', hw _ (by omega), if_pos rfl]
  refine congrArg (· ++ [l]) (List.map_congr_left fun k hk => ?_)
  have hk : k < c := List.mem_range.mp hk
  rw [hw _ (by omega), if_neg (by omega)]

/-- The bits of a byte string in the order they go on the line (R170). -/
def wireBits (bs : List Byte) : List Bit := bs.flatMap (topBits 8)

@[simp] theorem wireBits_nil : wireBits [] = [] := rfl

@[simp] theorem wireBits_cons (b : Byte) (bs : List Byte) : wireBits (b :: bs) = topBits 8 b ++ wireBits bs := rfl

theorem wireBits_concat (bs : List Byte) (b : Byte) : wireBits (bs ++ [b]) = wireBits bs ++ topBits 8 b := by
  rw [wireBits, List.flatMap_append, List.flatMap_singleton, wireBits]

@[simp] theorem length_wireBits (bs : List Byte) : (wireBits bs).length = 8 * bs.length := by
  simp [wireBits, List.length_flatMap, Nat.mul_comm]

theorem topBits_injective : (topBits 8).Injective := by
  intro v w h
  refine BitVec.eq_of_getLsbD_eq fun i hi => ?_
  have hbit := List.map_inj_left.mp h (7 - i) (List.mem_range.mpr (by omega))
  rwa [show 7 - (7 - i) = i by omega] at hbit

/-- The bits of whole bytes and of an unfinished one determine the bytes, and that none is unfinished where the bits are those of whole
bytes. -/
theorem wireBits_inj {bs cs : List Byte} {n : Nat} (hn : n < 8) {v : Byte} (h : wireBits bs ++ topBits n v = wireBits cs) :
    bs = cs ∧ n = 0 := by
  have hlen := congrArg List.length h
  induction bs generalizing cs with
  | nil =>
    cases cs with
    | nil => exact ⟨rfl, by simpa using hlen⟩
    | cons c cs => simp at hlen; omega
  | cons b bs ih =>
    cases cs with
    | nil => simp at hlen
    | cons c cs =>
      simp only [wireBits_cons, List.append_assoc] at h
      obtain ⟨hhead, htail⟩ := List.append_inj h (by simp)
      obtain ⟨rfl, hzero⟩ := ih htail (congrArg List.length htail)
      exact ⟨congrArg (· :: bs) (topBits_injective hhead), hzero⟩

/-- From `s₀` on the receiver has sampled the bits `ds` and lost none: they are those of the bytes queued since, then those of the
unfinished byte. -/
structure Decoded (s₀ : State) (ds : List Bit) (s : State) : Prop where
  cfg : s.cfg = s₀.cfg
  ring : RingOk s.cfg.nRx s.rxRing
  overflow : s.rxOverflow = s₀.rxOverflow
  bits : ∃ bs, ringBytes s.cfg.nRx s.rxRing = ringBytes s₀.cfg.nRx s₀.rxRing ++ bs ∧
    wireBits bs ++ topBits s.rxCursor.val s.rxByte = ds

theorem decoded_nil {s : State} (hok : RingOk s.cfg.nRx s.rxRing) (hc : s.rxCursor = 0) : Decoded s [] s :=
  ⟨rfl, hok, rfl, [], (List.append_nil _).symm, by rw [hc]; rfl⟩

/-- Once the bits of whole bytes are sampled, those bytes are queued. -/
theorem Decoded.bytes {s₀ s : State} {bs : List Byte} (h : Decoded s₀ (wireBits bs) s) :
    ringBytes s.cfg.nRx s.rxRing = ringBytes s₀.cfg.nRx s₀.rxRing ++ bs ∧ s.rxCursor = 0 := by
  obtain ⟨cs, hbytes, hbits⟩ := h.bits
  obtain ⟨rfl, hzero⟩ := wireBits_inj s.rxCursor.isLt hbits
  exact ⟨hbytes, Fin.ext hzero⟩

/-- While not all the bits that `s₀` has room for are sampled, a byte more fits. -/
theorem Decoded.room {s₀ s : State} {ds : List Bit} (h : Decoded s₀ ds s) (h₀ : RingOk s₀.cfg.nRx s₀.rxRing)
    (hroom : ds.length < 8 * ringFree s₀.cfg.nRx s₀.rxRing) : 0 < ringFree s.cfg.nRx s.rxRing := by
  obtain ⟨bs, hbytes, rfl⟩ := h.bits
  have hcount := congrArg List.length hbytes
  rw [ringBytes_length h.ring, List.length_append, ringBytes_length h₀] at hcount
  rw [List.length_append, length_wireBits] at hroom
  unfold ringFree at hroom ⊢
  rw [hcount, h.cfg]
  omega

/-- A data edge samples one bit more. -/
theorem Decoded.data_edge {s₀ s : State} {ds : List Bit} (h : Decoded s₀ ds s) (h₀ : RingOk s₀.cfg.nRx s₀.rxRing)
    (hroom : ds.length < 8 * ringFree s₀.cfg.nRx s₀.rxRing) (he : s.expData = true) (l : Bit) :
    ∃ t, exec (.edge l) s = .next t ∧ Decoded s₀ (ds ++ [l]) t ∧ t.expData = false ∧ t.hbArmed = true := by
  obtain ⟨bs, hbytes, hbits⟩ := h.bits
  by_cases hc : s.rxCursor = 7
  · obtain ⟨b, r, hb, hr, hget, _, hexec⟩ := lastDataEdgeDeliversTheByte l s h.ring he hc (h.room h₀ hroom)
    refine ⟨_, hexec, ⟨h.cfg, exec_edge_ringOk h.ring hexec, h.overflow, bs ++ [b], ?_, ?_⟩, rfl, rfl⟩
    · rw [hr, hbytes, List.append_assoc]
    · rw [← hbits, hc, wireBits_concat, topBits_sampled (c := 7) (by decide) hb]
      simp [topBits]
  · obtain ⟨b, hb, hexec⟩ := dataEdgeSamplesOneBit l s he hc
    refine ⟨_, hexec, ⟨h.cfg, h.ring, h.overflow, bs, hbytes, ?_⟩, rfl, rfl⟩
    have hnext : (s.rxCursor + 1).val = s.rxCursor.val + 1 := Fin.val_add_one_of_lt (Fin.lt_last_iff_ne_last.mpr hc)
    rw [hnext, topBits_sampled s.rxCursor.isLt hb, ← List.append_assoc, hbits]

/-- A boundary edge samples no bit, and the next edge is a data edge. -/
theorem Decoded.boundary_edge {s₀ s : State} {ds : List Bit} (h : Decoded s₀ ds s) (he : s.expData = false) (l : Bit) :
    ∃ t, exec (.edge l) s = .next t ∧ Decoded s₀ ds t ∧ t.expData = true :=
  ⟨_, boundaryEdgeIsNotSampled l s he, { h with }, rfl⟩

/-- The half-bit timeout samples no bit, and the next edge is a data edge. -/
theorem Decoded.timeout {s₀ s : State} {ds : List Bit} (h : Decoded s₀ ds s) (ha : s.hbArmed = true) :
    ∃ t, exec .hbTo s = .next t ∧ Decoded s₀ ds t ∧ t.expData = true :=
  ⟨_, halfBitTimeoutExpectsData s ha, { h with }, rfl⟩

theorem Decoded.separator_event {s₀ s : State} {ds : List Bit} (h : Decoded s₀ ds s) (he : s.expData = false)
    (ha : s.hbArmed = true) (cur next : Bit) :
    ∃ t, exec (separator cur next) s = .next t ∧ Decoded s₀ ds t ∧ t.expData = true := by
  unfold separator
  split
  · exact h.boundary_edge he _
  · exact h.timeout ha

/-! ## The events of a bit string (R228) -/

/-- A data edge for each bit, with a boundary edge or a timeout between two of them. -/
def eventsOfBits (ds : List Bit) : List Instr :=
  match ds with
  | [] => []
  | [b] => [.edge b]
  | b :: c :: rest => .edge b :: separator b c :: eventsOfBits (c :: rest)

theorem eventsOfBits_append (ds : List Bit) (b c : Bit) (es : List Bit) :
    eventsOfBits (ds ++ b :: c :: es) = eventsOfBits (ds ++ [b]) ++ separator b c :: eventsOfBits (c :: es) := by
  induction ds with
  | nil => rfl
  | cons d ds ih =>
    cases ds with
    | nil => rfl
    | cons d' ds => exact congrArg (fun is => .edge d :: separator d d' :: is) ih

theorem bitEvents_eq (v : Byte) : bitEvents v 7 = eventsOfBits (topBits 8 v) := rfl

theorem lineEvents_eq (bs : List Byte) : lineEvents bs = eventsOfBits (wireBits bs) := by
  induction bs with
  | nil => rfl
  | cons v bs ih =>
    cases bs with
    | nil => rfl
    | cons u rest =>
      rw [lineEvents, ih, bitEvents_eq, wireBits_cons, wireBits_cons, topBits_succ' 7 v, List.append_assoc]
      exact (eventsOfBits_append (topBits 7 v) _ _ _).symm

/-- The events of a bit string sample its bits. -/
theorem Decoded.events {s₀ s : State} {ds es : List Bit} (h : Decoded s₀ ds s) (h₀ : RingOk s₀.cfg.nRx s₀.rxRing)
    (hroom : ds.length + es.length ≤ 8 * ringFree s₀.cfg.nRx s₀.rxRing) (he : s.expData = true) (hne : es ≠ []) :
    ∃ t, execAll (eventsOfBits es) s = .next t ∧ Decoded s₀ (ds ++ es) t ∧ t.expData = false ∧ t.hbArmed = true := by
  induction es generalizing ds s with
  | nil => exact absurd rfl hne
  | cons b es ih =>
    simp only [List.length_cons] at hroom
    obtain ⟨u, hu, hdec, hue, hua⟩ := h.data_edge h₀ (by omega) he b
    cases es with
    | nil => exact ⟨u, by simp [eventsOfBits, execAll, hu], hdec, hue, hua⟩
    | cons c es =>
      obtain ⟨w, hw, hdecw, hwe⟩ := hdec.separator_event hue hua b c
      obtain ⟨t, ht, hdect, htimer⟩ := ih hdecw (by simpa [Nat.add_assoc, Nat.add_comm] using hroom) hwe (List.cons_ne_nil c es)
      rw [List.append_assoc] at hdect
      exact ⟨t, by simp [eventsOfBits, execAll, hu, hw, ht], hdect, htimer⟩

/-- Settles O23: the events of a byte string are those of its bits. -/
theorem decodeSequenceDeliversTheBytes : Obligations.DecodeSequenceDeliversTheBytes := by
  intro bs s hne hok he hc hroom
  have hbits : wireBits bs ≠ [] := by
    have hpos := List.length_pos_iff.mpr hne
    rw [← List.length_pos_iff, length_wireBits]
    omega
  obtain ⟨t, hrun, hdec, hte, hta⟩ :=
    (decoded_nil hok hc).events hok (by rw [List.length_nil, length_wireBits]; omega) he hbits
  obtain ⟨hbytes, hcursor⟩ := hdec.bytes
  exact ⟨t, by rw [lineEvents_eq, hrun], hdec.cfg ▸ hbytes, hte, hta, hcursor, hdec.overflow⟩

end Sys2Proof.Machine
end

section
/-! SUPPORT. The proofs of family 45_receiver.md, the cycle layer: the receiver of a station on its own line decodes the frame it sends
(R229, R232). -/

namespace Sys2Proof.Machine

/-! ## The steps from the tick on leave the receiver alone (R253) -/

/-- A state without the fields of the transmitter and the response. -/
def rxView (s : State) : State :=
  { s with
    tickCnt := 0, txActive := false, txShift := 0#8, txBitsLeft := 0, tickArmed := false, txAborted := false, txEn := false,
    txLevel := false, txRing := Ring.reset, resp := none }

theorem reloadTick_rxView (s : State) : rxView (reloadTick s) = rxView s := by
  unfold reloadTick
  split <;> rfl

theorem tickPhase_rxView {d : Bool} {s t : State} (h : tickPhase d s = .next t) : rxView t = rxView s := by
  unfold tickPhase at h
  split at h
  · obtain ⟨u, hu, ht⟩ := andThen_eq_next.1 h
    cases ht
    obtain ⟨_, _, htick, _⟩ := frameOfTimerEvents
    rw [reloadTick_rxView, (htick s u hu).1]
    rfl
  · cases h; rfl

theorem startPhase_rxView {s t : State} (h : startPhase s = .next t) : rxView t = rxView s := by
  unfold startPhase at h
  split at h
  · obtain ⟨_, _, _, hstart⟩ := frameOfTimerEvents
    rw [hstart s t h]
    rfl
  · cases h; rfl

/-! ## A cycle of a station on its own line -/

/-- A host command that leaves the receiver alone. -/
def LeavesReceiver (cmd : Option Command) : Prop := ∀ s t, hostPhase cmd s = .next t → rxView t = rxView s

theorem leavesReceiver_none : LeavesReceiver none := by
  intro s t h
  cases h
  rfl

theorem leavesReceiver_enq (p : List Byte) : LeavesReceiver (some ⟨0x0010#16, .bytes p⟩) := by
  intro s t h
  obtain ⟨hframe, _⟩ := frameOfEnq p s t ((execute_enq p s).symm.trans h)
  rw [hframe]
  rfl

theorem cycle_rxView_cases {cmd : Option Command} {s t : State} (hcmd : LeavesReceiver cmd)
    (h : cycle ⟨false, .loopback, cmd⟩ s = .next t) :
    ∃ v w u, edgePhase (lineIn .loopback s) (counted s) = .next v ∧
      idlePhase (due .idle (counted s) && lineIn .loopback s == s.prevLevel) v = .next w ∧
      hbPhase (due .hb (counted s) && lineIn .loopback s == s.prevLevel) w = .next u ∧ rxView t = rxView u := by
  obtain ⟨s1, s2, s3, s4, s5, h1, h2, h3, h4, h5, h6⟩ := runPhases_cases (s := counted s) h
  exact ⟨s1, s2, s3, h1, h2, h3, (startPhase_rxView h6).trans ((hcmd s4 s5 h5).trans (tickPhase_rxView h4))⟩

/-- With an edge, no timeout of the line runs. -/
theorem quiet_cycle_rxView_edge {s t : State} (h : cycle quietCycle s = .next t) (hl : lineIn .loopback s ≠ s.prevLevel) :
    ∃ u, exec (.edge (lineIn .loopback s)) { counted s with prevLevel := lineIn .loopback s } = .next u ∧
      rxView t = rxView u := by
  obtain ⟨v, w, u, hedge, hidle, hhb, hview⟩ := cycle_rxView_cases leavesReceiver_none h
  rw [beq_eq_false_iff_ne.mpr hl, Bool.and_false] at hidle hhb
  cases hidle
  cases hhb
  exact ⟨v, (if_neg hl : edgePhase _ (counted s) = _).symm.trans hedge, hview⟩

/-- Without an edge, a timeout that is due runs. -/
theorem cycle_rxView_no_edge {cmd : Option Command} {s t : State} (hcmd : LeavesReceiver cmd)
    (h : cycle ⟨false, .loopback, cmd⟩ s = .next t) (hl : lineIn .loopback s = s.prevLevel) :
    ∃ w u, idlePhase (due .idle (counted s)) (counted s) = .next w ∧ hbPhase (due .hb (counted s)) w = .next u ∧
      rxView t = rxView u := by
  obtain ⟨v, w, u, hedge, hidle, hhb, hview⟩ := cycle_rxView_cases hcmd h
  cases (edgePhase_no_edge (s := counted s) hl).symm.trans hedge
  rw [beq_iff_eq.mpr hl, Bool.and_true] at hidle hhb
  exact ⟨w, u, hidle, hhb, hview⟩

theorem due_idle_counted {s : State} (ha : s.idleArmed = true) : due .idle (counted s) = (s.idleCnt - 1 == 0) := by
  simp [due, counted, ha]

theorem due_hb_counted {s : State} (ha : s.hbArmed = true) : due .hb (counted s) = (s.hbCnt - 1 == 0) := by
  simp [due, counted, ha]

theorem idlePhase_counted_not_due {s : State} (h : s.idleArmed = true → 2 ≤ s.idleCnt) :
    idlePhase (due .idle (counted s)) (counted s) = .next (counted s) := by
  refine if_neg fun hdue => ?_
  obtain ⟨hdue, harmed⟩ := Bool.and_eq_true_iff.mp hdue
  have hcount := h harmed
  rw [due_idle_counted (s := s) harmed, beq_iff_eq] at hdue
  omega

theorem hbPhase_counted_cases {s u : State} (h : hbPhase (due .hb (counted s)) (counted s) = .next u) :
    (s.hbArmed = true ∧ s.hbCnt ≤ 1 ∧ u = { counted s with hbArmed := false, expData := true }) ∨
      ((s.hbArmed = true → 2 ≤ s.hbCnt) ∧ u = counted s) := by
  unfold hbPhase at h
  split at h
  · rename_i hdue
    obtain ⟨hdue, harmed⟩ := Bool.and_eq_true_iff.mp hdue
    rw [due_hb_counted (s := s) harmed, beq_iff_eq] at hdue
    exact .inl ⟨harmed, by omega, (execHbTo_cases h).2⟩
  · rename_i hdue
    cases h
    refine .inr ⟨fun harmed => Nat.not_lt.mp fun hlt => hdue ?_, rfl⟩
    rw [due_hb_counted harmed, Bool.and_eq_true_iff, beq_iff_eq]
    exact ⟨by omega, harmed⟩

/-- What an edge to level `l` does to the timers of the line and to the receiver's phase. -/
structure AfterEdge (l : Bit) (s t : State) : Prop where
  prevLevel : t.prevLevel = l
  lastLevel : t.lastLevel = l
  idleArmed : t.idleArmed = true
  idleCnt : t.idleCnt = s.cfg.tIdle
  expData : t.expData = !s.expData
  hbArmed : t.hbArmed = s.expData
  hbCnt : s.expData = true → t.hbCnt = s.cfg.tHb

theorem cycle_afterEdge {s t : State} (hok : RingOk s.cfg.nRx s.rxRing) (h : cycle quietCycle s = .next t)
    (hl : lineIn .loopback s ≠ s.prevLevel) : AfterEdge (lineIn .loopback s) s t := by
  obtain ⟨u, hu, hview⟩ := quiet_cycle_rxView_edge h hl
  obtain ⟨_, _, _, _, _, rfl⟩ :=
    rxEdge_effect (s := monitorEdge _ { counted s with prevLevel := lineIn .loopback s }) hok (execEdge_cases hu)
  have hv : AfterEdge (lineIn .loopback s) s (rxView t) := by
    rw [hview]
    exact ⟨rfl, rfl, rfl, rfl, rfl, rfl, fun he => if_pos he⟩
  exact { hv with }

/-! ## The receiver within the frame -/

/-- The bits `ds` are sampled, the idle timer runs until the line is IDLE, and `lastLevel` is the level of the line. -/
structure Followed (s₀ : State) (ds : List Bit) (s : State) : Prop extends Decoded s₀ ds s where
  idle : s.idleArmed = false → s.ls = .idle
  lastLevel : s.idleArmed = true → s.lastLevel = s.prevLevel

theorem Decoded.of_rxView {s₀ s t : State} {ds : List Bit} (h : Decoded s₀ ds s) (hview : rxView t = rxView s) :
    Decoded s₀ ds t := by
  have hs : Decoded s₀ ds (rxView s) := { h with }
  rw [← hview] at hs
  exact { hs with }

theorem Followed.of_rxView {s₀ s t : State} {ds : List Bit} (h : Followed s₀ ds s) (hview : rxView t = rxView s) :
    Followed s₀ ds t := by
  have hs : Followed s₀ ds (rxView s) := { h with }
  rw [← hview] at hs
  exact { hs with }

theorem Followed.after_count {s₀ s : State} {ds : List Bit} (h : Followed s₀ ds s) : Followed s₀ ds (counted s) := { h with }

theorem Decoded.followed {s₀ s t : State} {ds : List Bit} {l : Bit} (h : Decoded s₀ ds t) (hedge : AfterEdge l s t) :
    Followed s₀ ds t :=
  { h with
    idle := fun hna => nomatch hna.symm.trans hedge.idleArmed
    lastLevel := fun _ => hedge.lastLevel.trans hedge.prevLevel.symm }

/-- In a cycle with an edge the receiver does what it does on the edge. -/
theorem Followed.edge_cycle {s₀ s t : State} {ds es : List Bit} (h : Followed s₀ ds s) (he : cycle quietCycle s = .next t)
    (hl : lineIn .loopback s ≠ s.prevLevel)
    (hexec : ∀ w, Decoded s₀ ds w → w.expData = s.expData →
      ∃ u, exec (.edge (lineIn .loopback s)) w = .next u ∧ Decoded s₀ es u) :
    Followed s₀ es t ∧ AfterEdge (lineIn .loopback s) s t := by
  have hedge := cycle_afterEdge h.ring he hl
  obtain ⟨u, hu, hview⟩ := quiet_cycle_rxView_edge he hl
  obtain ⟨u', hu', hdec⟩ := hexec { counted s with prevLevel := lineIn .loopback s } { h with } rfl
  cases hu'.symm.trans hu
  exact ⟨(hdec.of_rxView hview).followed hedge, hedge⟩

theorem Followed.boundary_cycle {s₀ s t : State} {ds : List Bit} (h : Followed s₀ ds s) (hexp : s.expData = false)
    (he : cycle quietCycle s = .next t) (hl : lineIn .loopback s ≠ s.prevLevel) :
    Followed s₀ ds t ∧ AfterEdge (lineIn .loopback s) s t :=
  h.edge_cycle he hl fun _ hw hwexp =>
    have ⟨u, hu, hdec, _⟩ := hw.boundary_edge (hwexp.trans hexp) _
    ⟨u, hu, hdec⟩

theorem Followed.data_cycle {s₀ s t : State} {ds : List Bit} (h : Followed s₀ ds s) (h₀ : RingOk s₀.cfg.nRx s₀.rxRing)
    (hroom : ds.length < 8 * ringFree s₀.cfg.nRx s₀.rxRing) (hexp : s.expData = true)
    (he : cycle quietCycle s = .next t) (hl : lineIn .loopback s ≠ s.prevLevel) :
    Followed s₀ (ds ++ [lineIn .loopback s]) t ∧ AfterEdge (lineIn .loopback s) s t :=
  h.edge_cycle he hl fun _ hw hwexp =>
    have ⟨u, hu, hdec, _⟩ := hw.data_edge h₀ hroom (hwexp.trans hexp) _
    ⟨u, hu, hdec⟩

/-- The receiver has heard `m` bits of the frame, the last `x` cycles ago, its own cycle counted in: for `x` up to `H` the line is on that
bit's second slot, and then on the next bit's first. A line released before the frame is on the second slot of a bit 1. -/
structure Heard (s₀ : State) (msg : List Bit) (m x : Nat) (s : State) : Prop extends Followed s₀ (msg.take m) s where
  second : x ≤ s₀.cfg.halfBit → (true :: msg)[m]? = some s.prevLevel
  first : s₀.cfg.halfBit < x → msg[m]? = some !s.prevLevel
  phase : (s.expData = true ∧ s.hbArmed = false ∧ (x ≤ s₀.cfg.halfBit → m = 0)) ∨
    (s.expData = false ∧ s.hbArmed = true ∧ s.hbCnt + x = s₀.cfg.tHb + 1)
  idleCnt : s.idleArmed = true → s₀.cfg.tIdle < s.idleCnt + x

theorem Heard.of_rxView {s₀ s t : State} {msg : List Bit} {m x : Nat} (h : Heard s₀ msg m x s)
    (hview : rxView t = rxView s) : Heard s₀ msg m x t := by
  have hs : Heard s₀ msg m x (rxView s) := { h with }
  rw [← hview] at hs
  exact { hs with }

/-- Without an edge the idle timer is not due, and the half-bit timer can only be due in the next bit's first slot. -/
theorem Heard.no_edge {s₀ s t : State} {msg : List Bit} {m x : Nat} (h : Heard s₀ msg m x s) (hc : s₀.cfg.ok)
    (hx : x < 2 * s₀.cfg.halfBit) (hfirst : s₀.cfg.halfBit ≤ x → msg[m]? = some !s.prevLevel)
    (he : cycle quietCycle s = .next t) (hl : lineIn .loopback s = s.prevLevel) : Heard s₀ msg m (x + 1) t := by
  obtain ⟨⟨hpos, hle, hlt, hgap⟩, _⟩ := hc
  obtain ⟨w, u, hidle, hhb, hview⟩ := cycle_rxView_no_edge leavesReceiver_none he hl
  have hcnt := h.idleCnt
  cases (idlePhase_counted_not_due fun ha => by have := hcnt ha; omega).symm.trans hidle
  refine Heard.of_rxView ?_ hview
  have hkeep (armed exp : Bool)
      (hphase : (exp = true ∧ armed = false ∧ (x + 1 ≤ s₀.cfg.halfBit → m = 0)) ∨
        (exp = false ∧ armed = true ∧ (counted s).hbCnt + (x + 1) = s₀.cfg.tHb + 1)) :
      Heard s₀ msg m (x + 1) { counted s with hbArmed := armed, expData := exp } :=
    { h with
      second := fun hx' => h.second (by omega)
      first := fun hx' => hfirst (by omega)
      phase := hphase
      idleCnt := fun ha => by
        have hcount : (counted s).idleCnt = s.idleCnt - 1 := if_pos ha
        have := hcnt ha
        rw [hcount]
        omega }
  obtain ⟨ha, h1, rfl⟩ | ⟨h2, rfl⟩ := hbPhase_counted_cases hhb
  · obtain ⟨_, hna, _⟩ | ⟨_, _, hhbCnt⟩ := h.phase
    · exact nomatch hna.symm.trans ha
    · exact hkeep false true (.inl ⟨rfl, rfl, fun _ => by omega⟩)
  · refine hkeep s.hbArmed s.expData ?_
    obtain ⟨hexp, hna, hm⟩ | ⟨hexp, ha, hhbCnt⟩ := h.phase
    · exact .inl ⟨hexp, hna, fun hx' => hm (by omega)⟩
    · have hcount : (counted s).hbCnt = s.hbCnt - 1 := if_pos ha
      have := h2 ha
      exact .inr ⟨hexp, ha, by omega⟩

/-- An edge between two bits is not sampled: the half-bit timer is not yet over. -/
theorem Heard.boundary {s₀ s t : State} {msg : List Bit} {m : Nat} (h : Heard s₀ msg m s₀.cfg.halfBit s)
    (hc : s₀.cfg.ok) (hm : m ≠ 0) (hfirst : msg[m]? = some !lineIn .loopback s)
    (he : cycle quietCycle s = .next t) (hl : lineIn .loopback s ≠ s.prevLevel) :
    Heard s₀ msg m (s₀.cfg.halfBit + 1) t := by
  have hexp : s.expData = false := by
    obtain ⟨_, _, h0⟩ | ⟨hexp, _⟩ := h.phase
    · exact absurd (h0 le_rfl) hm
    · exact hexp
  obtain ⟨hfollowed, hedge⟩ := h.toFollowed.boundary_cycle hexp he hl
  exact { hfollowed with
    second := fun hx => absurd hx (by omega)
    first := fun _ => hedge.prevLevel ▸ hfirst
    phase := .inl ⟨hedge.expData.trans (congrArg not hexp), hedge.hbArmed.trans hexp, fun hx => absurd hx (by omega)⟩
    idleCnt := fun _ => by rw [hedge.idleCnt, h.cfg]; omega }

/-- Where the next bit's first slot is on the line, with an edge at its start or without. Before the frame's first bit, a 0, there is
none. -/
theorem Heard.first_slot {s₀ s t : State} {msg : List Bit} {m x : Nat} (h : Heard s₀ msg m x s) (hc : s₀.cfg.ok)
    (hx1 : s₀.cfg.halfBit ≤ x) (hx2 : x < 2 * s₀.cfg.halfBit) (hzero : msg[0]? = some false)
    (hbit : msg[m]? = some !lineIn .loopback s) (he : cycle quietCycle s = .next t) : Heard s₀ msg m (x + 1) t := by
  by_cases hl : lineIn .loopback s = s.prevLevel
  · exact h.no_edge hc hx2 (fun _ => hl ▸ hbit) he hl
  · obtain rfl | hlt := hx1.eq_or_lt
    · refine h.boundary hc ?_ hbit he hl
      rintro rfl
      have hprev := Option.some.inj (h.second le_rfl)
      have hline := Bool.not_eq_eq_eq_not.mp (Option.some.inj (hbit.symm.trans hzero))
      exact hl (hline.trans hprev)
    · exact absurd (Bool.not_inj (Option.some.inj (hbit.symm.trans (h.first hlt)))) hl

/-- The edge in the middle of a bit is sampled: the half-bit timer is over. -/
theorem Heard.data {s₀ s t : State} {msg : List Bit} {m : Nat} (h : Heard s₀ msg m (2 * s₀.cfg.halfBit) s)
    (hinv : Inv s) (hinv₀ : EventInv s₀) (hroom : msg.length ≤ 8 * ringFree s₀.cfg.nRx s₀.rxRing)
    (hbit : msg[m]? = some (lineIn .loopback s)) (he : cycle quietCycle s = .next t) : Heard s₀ msg (m + 1) 1 t := by
  obtain ⟨⟨hpos, _, htHb, _⟩, _⟩ := hinv₀.cfg_ok
  have hl : lineIn .loopback s ≠ s.prevLevel := by
    rw [Option.some.inj (hbit.symm.trans (h.first (by omega)))]
    exact Bool.not_ne_self s.prevLevel
  have hexp : s.expData = true := by
    obtain ⟨hexp, _⟩ | ⟨_, ha, hhb⟩ := h.phase
    · exact hexp
    · obtain ⟨_, htimers⟩ := (inv_iff s).mp hinv
      obtain ⟨hcnt, _⟩ := (timerOk_hb s).mp (htimers .hb) ha
      omega
  have hfits : (msg.take m).length < 8 * ringFree s₀.cfg.nRx s₀.rxRing := by
    obtain ⟨hm, _⟩ := List.getElem?_eq_some_iff.mp hbit
    rw [List.length_take]
    omega
  obtain ⟨hfollowed, hedge⟩ := h.toFollowed.data_cycle hinv₀.rxRing_ok hfits hexp he hl
  have htake : msg.take m ++ [lineIn .loopback s] = msg.take (m + 1) := by rw [List.take_add_one, hbit]; rfl
  rw [htake] at hfollowed
  exact { hfollowed with
    second := fun _ => by rw [List.getElem?_cons_succ, hedge.prevLevel, hbit]
    first := fun hx => absurd hx (by omega)
    phase := .inr ⟨hedge.expData.trans (congrArg not hexp), hedge.hbArmed.trans hexp, by rw [hedge.hbCnt hexp, h.cfg]⟩
    idleCnt := fun _ => by rw [hedge.idleCnt, h.cfg]; omega }

/-! ## The slots of a bit string (R71, R174) -/

/-- The two slots of each bit. -/
def slotsOfBits (msg : List Bit) : List Bit := msg.flatMap fun b => [!b, b]

theorem wireSlots_eq (bs : List Byte) : wireSlots bs = slotsOfBits (wireBits bs) := by
  obtain ⟨hslots, _⟩ := slotsOfBytes
  rw [(hslots bs).1, slotsOfBits, wireBits, List.flatMap_assoc]
  exact List.flatMap_congr fun v _ => by rw [topBits, List.flatMap_map]

/-- Behind a first slot, the slots alternate between a bit's second and the next one's first. -/
theorem getElem?_cons_slotsOfBits (b : Bit) (msg : List Bit) (m : Nat) :
    (b :: slotsOfBits msg)[2 * m]? = (b :: msg)[m]? ∧ (b :: slotsOfBits msg)[2 * m + 1]? = msg[m]?.map not := by
  induction msg generalizing b m with
  | nil => cases m <;> simp [slotsOfBits, Nat.mul_succ]
  | cons c msg ih =>
    cases m with
    | zero => exact ⟨rfl, rfl⟩
    | succ m => exact ih c m

theorem length_slotsOfBits (msg : List Bit) : (slotsOfBits msg).length = 2 * msg.length := by
  simp [slotsOfBits, List.length_flatMap, Nat.mul_comm]

/-! ## The frame on the station's own line (R255) -/

/-- What a cycle of the frame reads on the line, `H` cycles of the released level standing before the frame. -/
theorem SendsAt.line {s₀ s : State} {frame : List Bit} {j : Nat} (h : SendsAt s₀ frame j s) (hinv : Inv s)
    (hpos : 0 < s₀.cfg.halfBit) :
    (true :: frame)[(j + s₀.cfg.halfBit) / s₀.cfg.halfBit]? = some (lineIn .loopback s) := by
  obtain ⟨_, hen, hlevel⟩ := h.level hinv
  rw [Nat.add_div_right _ hpos, List.getElem?_cons_succ, hlevel]
  simp [lineIn, hen]

/-- What the receiver has heard `j` cycles after the start of the frame. -/
def HeardAt (s₀ : State) (msg : List Bit) (j : Nat) (s : State) : Prop :=
  ∃ m x, Heard s₀ msg m x s ∧ j + s₀.cfg.halfBit = s₀.cfg.halfBit * (2 * m) + x ∧ 1 ≤ x ∧ x ≤ 2 * s₀.cfg.halfBit

theorem HeardAt.next_cycle {s₀ s t : State} {msg : List Bit} {j : Nat} (h : HeardAt s₀ msg j s)
    (hsend : SendsAt s₀ (slotsOfBits msg) j s) (hinv : Inv s) (hinv₀ : EventInv s₀)
    (hroom : msg.length ≤ 8 * ringFree s₀.cfg.nRx s₀.rxRing) (hzero : msg[0]? = some false)
    (he : cycle quietCycle s = .next t) : HeardAt s₀ msg (j + 1) t := by
  obtain ⟨m, x, hm, hj, hx1, hx2⟩ := h
  have hpos : 0 < s₀.cfg.halfBit := Timer.load_pos .tick hinv₀.cfg_ok
  have hline := hsend.line hinv hpos
  obtain ⟨hsecond, hfirst⟩ := getElem?_cons_slotsOfBits true msg m
  rw [hj, Nat.mul_add_div hpos] at hline
  by_cases hlt : x < s₀.cfg.halfBit
  · rw [Nat.div_eq_of_lt hlt, Nat.add_zero, hsecond, hm.second hlt.le, Option.some.injEq] at hline
    exact ⟨m, x + 1, hm.no_edge hinv₀.cfg_ok (by omega) (fun hx => by omega) he hline.symm, by omega, by omega, by omega⟩
  · by_cases hlast : x = 2 * s₀.cfg.halfBit
    · rw [hlast, Nat.mul_div_cancel _ hpos] at hline
      rw [hlast] at hm hj
      obtain ⟨hsecond, _⟩ := getElem?_cons_slotsOfBits true msg (m + 1)
      rw [show 2 * m + 2 = 2 * (m + 1) by omega, hsecond, List.getElem?_cons_succ] at hline
      refine ⟨m + 1, 1, hm.data hinv hinv₀ hroom hline he, ?_, by omega, by omega⟩
      rw [Nat.mul_succ 2, Nat.mul_add]
      omega
    · rw [Nat.div_eq_of_lt_le (k := 1) (by omega) (by omega), hfirst] at hline
      have hbit : msg[m]? = some !lineIn .loopback s := by
        obtain ⟨b, hb, hnot⟩ := Option.map_eq_some_iff.mp hline
        rw [hb, ← hnot, Bool.not_not]
      exact ⟨m, x + 1, hm.first_slot hinv₀.cfg_ok (by omega) (by omega) hzero hbit he, by omega, by omega, by omega⟩

theorem Followed.no_collision {s₀ s : State} {ds : List Bit} (h : Followed s₀ ds s) (hinv : Inv s) : s.ls ≠ .collision := by
  obtain ⟨hev, _⟩ := (inv_iff s).mp hinv
  rcases ha : s.idleArmed with _ | _
  · simp [h.idle ha]
  · simp [hev.i1 ha]

/-- The cycle of the `ENQ`: the receiver waits for a first bit. -/
theorem heardAt_start {s t : State} {p : List Byte} (msg : List Bit) (hinv : EventInv s) (hlevel : s.prevLevel = true)
    (hrel : s.cfg.releasedLevel = true) (hactive : s.txActive = false) (hls : s.ls = .idle) (hexp : s.expData = true)
    (hc : s.rxCursor = 0) (he : cycle ⟨false, .loopback, some ⟨0x0010#16, .bytes p⟩⟩ s = .next t) : HeardAt s msg 0 t := by
  have hpos : 0 < s.cfg.halfBit := Timer.load_pos .tick hinv.cfg_ok
  have hidle : s.idleArmed = false := by
    rw [← Bool.not_eq_true]
    exact fun ha => nomatch hls.symm.trans (hinv.i1 ha)
  have hhb : s.hbArmed = false := by
    rw [← Bool.not_eq_true]
    exact fun ha => nomatch hexp.symm.trans (hinv.i2 ha)
  obtain ⟨hen, _, _⟩ := hinv.i4 hactive
  obtain ⟨w, u, hw, hu, hview⟩ :=
    cycle_rxView_no_edge (leavesReceiver_enq p) he (by simp [lineIn, hen, hrel, hlevel])
  cases (idlePhase_disarmed (s := counted s) hidle).symm.trans hw
  obtain ⟨ha, _⟩ | ⟨_, rfl⟩ := hbPhase_counted_cases hu
  · exact nomatch hhb.symm.trans ha
  · refine ⟨0, s.cfg.halfBit, Heard.of_rxView ?_ hview, by omega, hpos, by omega⟩
    exact { decoded_nil hinv.rxRing_ok hc with
      idle := fun _ => hls
      lastLevel := fun ha => nomatch hidle.symm.trans ha
      second := fun _ => congrArg some hlevel.symm
      first := fun hx => absurd hx (by omega)
      phase := .inl ⟨hexp, hhb, fun _ => rfl⟩
      idleCnt := fun ha => nomatch hidle.symm.trans ha }

/-! ## After the frame (R225, R232) -/

/-- The frame is over: its bytes are queued, and an edge that is still to come is not sampled. -/
structure AfterFrame (s₀ : State) (bs : List Byte) (s : State) : Prop extends
    Followed s₀ (wireBits bs) s where
  released : Released s₀ s
  unsampled : s.prevLevel = true ∨ s.expData = false

/-- After `16*n*H` cycles the receiver has heard every bit, the last one half a bit ago. -/
theorem HeardAt.afterFrame {s₀ s : State} {bs : List Byte}
    (h : HeardAt s₀ (wireBits bs) ((slotsOfBits (wireBits bs)).length * s₀.cfg.halfBit) s) (hne : wireBits bs ≠ [])
    (hrel : Released s₀ s) : AfterFrame s₀ bs s := by
  obtain ⟨m, x, hm, hj, hx1, hx2⟩ := h
  rw [length_slotsOfBits, Nat.mul_comm] at hj
  have hmul : ∀ {a b : Nat}, a < b → s₀.cfg.halfBit * (2 * a) + 2 * s₀.cfg.halfBit ≤ s₀.cfg.halfBit * (2 * b) := by
    intro a b hab
    have := Nat.mul_le_mul_left s₀.cfg.halfBit (show 2 * a + 2 ≤ 2 * b by omega)
    rw [Nat.mul_add] at this
    omega
  obtain hlt | rfl | hlt := Nat.lt_trichotomy m (wireBits bs).length
  · have := hmul hlt
    omega
  · obtain rfl : x = s₀.cfg.halfBit := by omega
    have hfollowed := hm.toFollowed
    rw [List.take_length] at hfollowed
    refine { hfollowed with released := hrel, unsampled := .inr ?_ }
    obtain ⟨_, _, h0⟩ | ⟨hexp, _⟩ := hm.phase
    · exact absurd (List.length_eq_zero_iff.mp (h0 le_rfl)) hne
    · exact hexp
  · have := hmul hlt
    omega

theorem Released.quiet_cycle {s₀ s t : State} (h : Released s₀ s) (hinv : Inv s) (he : cycle quietCycle s = .next t) :
    Released s₀ t := by
  obtain ⟨u, v, w, hu, hview, _, htick, hhost, hstart⟩ := cycle_cases rfl hinv he
  have hrel : Released s₀ u :=
    { aborted := (congrArg State.txAborted hview :).trans h.aborted
      inactive := (congrArg State.txActive hview :).trans h.inactive
      en := (congrArg State.txEn hview :).trans h.en
      level := (congrArg State.txLevel hview :).trans h.level
      empty := (congrArg (fun s => ringEmpty s.txRing) hview :).trans h.empty }
  have htickArmed : u.tickArmed = false := hu.i3.trans hrel.inactive
  rw [tickPhase, htickArmed, Bool.and_false] at htick
  cases htick
  cases hhost
  cases hrel.no_start.symm.trans hstart
  exact hrel

/-- A timeout of the idle timer on a released line ends the message; the boundary reset finds no unfinished byte. -/
theorem Followed.after_idlePhase {s₀ s t : State} {bs : List Byte} {d : Bool} (h : Followed s₀ (wireBits bs) s)
    (hlevel : s.prevLevel = s.cfg.releasedLevel) (he : idlePhase d s = .next t) :
    Followed s₀ (wireBits bs) t ∧ t.prevLevel = s.prevLevel ∧
      (t.idleArmed = true → s.idleArmed = true ∧ t.idleCnt = s.idleCnt) := by
  unfold idlePhase at he
  split at he
  · obtain ⟨ha, ⟨_, rfl⟩ | ⟨hne, _⟩⟩ := execIdleTo_cases he
    · obtain ⟨hbytes, hc⟩ := h.bytes
      refine ⟨{ h with bits := ?_, idle := fun _ => rfl, lastLevel := nofun }, rfl, nofun⟩
      exact ⟨bs, hbytes, List.append_nil _⟩
    · exact absurd ((h.lastLevel ha).trans hlevel) hne
  · cases he
    exact ⟨h, rfl, fun ha => ⟨ha, rfl⟩⟩

theorem Followed.after_hbPhase {s₀ s t : State} {ds : List Bit} {d : Bool} (h : Followed s₀ ds s)
    (he : hbPhase d s = .next t) :
    Followed s₀ ds t ∧ t.prevLevel = s.prevLevel ∧ t.idleArmed = s.idleArmed ∧ t.idleCnt = s.idleCnt := by
  obtain rfl | rfl := hbPhase_cases he
  · exact ⟨h, rfl, rfl, rfl⟩
  · exact ⟨{ h with }, rfl, rfl, rfl⟩

/-- A released line stays released, and the idle timer counts down or stops. -/
theorem AfterFrame.no_edge {s₀ s t : State} {bs : List Byte} (h : AfterFrame s₀ bs s) (hinv : Inv s)
    (hrel : s₀.cfg.releasedLevel = true) (hlevel : s.prevLevel = true) (he : cycle quietCycle s = .next t) :
    AfterFrame s₀ bs t ∧ t.prevLevel = true ∧ (t.idleArmed = true → s.idleArmed = true ∧ t.idleCnt = s.idleCnt - 1) := by
  have hline : lineIn .loopback s = s.prevLevel := by simp [lineIn, h.released.en, h.cfg, hrel, hlevel]
  obtain ⟨w, u, hw, hu, hview⟩ := cycle_rxView_no_edge leavesReceiver_none he hline
  obtain ⟨hfw, hlw, hcw⟩ :=
    h.toFollowed.after_count.after_idlePhase (by rw [h.toFollowed.after_count.cfg, hrel]; exact hlevel) hw
  obtain ⟨hfu, hlu, hau, hcu⟩ := hfw.after_hbPhase hu
  have hlt : t.prevLevel = true := (congrArg State.prevLevel hview :).trans (hlu.trans (hlw.trans hlevel))
  refine ⟨{ hfu.of_rxView hview with released := h.released.quiet_cycle hinv he, unsampled := .inl hlt }, hlt, fun ha => ?_⟩
  obtain ⟨hs, hcnt⟩ := hcw (hau.symm.trans ((congrArg State.idleArmed hview :).symm.trans ha))
  refine ⟨hs, (congrArg State.idleCnt hview :).trans (hcu.trans (hcnt.trans ?_))⟩
  exact if_pos hs

/-- `i` cycles after the one that sees the release, the idle timer has counted them or is over. -/
structure Resting (s₀ : State) (bs : List Byte) (i : Nat) (s : State) : Prop extends AfterFrame s₀ bs s where
  line : s.prevLevel = true
  idleCnt : s.idleArmed = true → s.idleCnt + i ≤ s₀.cfg.tIdle

theorem idleCnt_range {s : State} (hinv : Inv s) (ha : s.idleArmed = true) : 1 ≤ s.idleCnt ∧ s.idleCnt ≤ s.cfg.tIdle := by
  obtain ⟨_, htimers⟩ := (inv_iff s).mp hinv
  exact htimers .idle ha

/-- The first cycle after the frame, which sees the release: where that is an edge, it is not sampled. -/
theorem AfterFrame.release {s₀ s t : State} {bs : List Byte} (h : AfterFrame s₀ bs s) (hinv : Inv s)
    (hrel : s₀.cfg.releasedLevel = true) (he : cycle quietCycle s = .next t) : Resting s₀ bs 0 t := by
  have hidle (hc : t.cfg = s₀.cfg) (ha : t.idleArmed = true) : t.idleCnt + 0 ≤ s₀.cfg.tIdle :=
    hc ▸ (idleCnt_range (cycle_inv hinv he) ha).2
  by_cases hlevel : s.prevLevel = true
  · obtain ⟨ht, hlt, _⟩ := h.no_edge hinv hrel hlevel he
    exact { ht with line := hlt, idleCnt := hidle ht.cfg }
  · have hexp : s.expData = false := h.unsampled.resolve_left hlevel
    have hline : lineIn .loopback s = true := by simp [lineIn, h.released.en, h.cfg, hrel]
    obtain ⟨ht, hedge⟩ := h.toFollowed.boundary_cycle hexp he (hline.trans_ne (Ne.symm hlevel))
    have hlt := hedge.prevLevel.trans hline
    exact { ht with
      released := h.released.quiet_cycle hinv he, unsampled := .inl hlt, line := hlt, idleCnt := hidle ht.cfg }

/-! ## The whole loopback -/

/-- What every quiet cycle carries on holds after any number of them. -/
theorem quiet_run {P : Nat → State → Prop} {n : Nat} {s : State} (hinv : Inv s) (h : P 0 s)
    (hstep : ∀ i < n, ∀ s t, Inv s → P i s → cycle quietCycle s = .next t → P (i + 1) t) :
    ∃ t, cycles (List.replicate n quietCycle) s = .next t ∧ Inv t ∧ P n t := by
  induction n with
  | zero => exact ⟨s, rfl, hinv, h⟩
  | succ n ih =>
    obtain ⟨u, hrun, hinvu, hu⟩ := ih fun i hi => hstep i (by omega)
    obtain ⟨t, ht⟩ := cycle_next hinvu quietCycle
    refine ⟨t, ?_, cycle_inv hinvu ht, hstep n (by omega) u t hinvu hu ht⟩
    rw [List.replicate_succ', cycles_append, hrun]
    simp [cycles, ht]

/-- `j` cycles after its start the transmission that began in `s₀` is under way or just over, and heard up to here. -/
structure InLoopback (s₀ : State) (msg : List Bit) (j : Nat) (s : State) : Prop where
  heard : HeardAt s₀ msg j s
  sent : SendsAt s₀ (slotsOfBits msg) j s ∨ (j = (slotsOfBits msg).length * s₀.cfg.halfBit ∧ Released s₀ s)

theorem InLoopback.next_cycle {s₀ s t : State} {msg : List Bit} {j : Nat} (h : InLoopback s₀ msg j s)
    (hj : j < (slotsOfBits msg).length * s₀.cfg.halfBit) (hinv : Inv s) (hinv₀ : EventInv s₀)
    (hroom : msg.length ≤ 8 * ringFree s₀.cfg.nRx s₀.rxRing) (hzero : msg[0]? = some false)
    (he : cycle quietCycle s = .next t) : InLoopback s₀ msg (j + 1) t := by
  have hsend := h.sent.resolve_right fun ⟨hend, _⟩ => hj.ne hend
  have hheard := h.heard.next_cycle hsend hinv hinv₀ hroom hzero he
  obtain ⟨m, x, hm, _⟩ := id hheard
  exact ⟨hheard, hsend.next_cycle hinv rfl rfl he (hm.toFollowed.no_collision (cycle_inv hinv he))⟩

/-- The cycles of the frame. -/
theorem quiet_run_frame {s₀ s : State} {bs : List Byte} (hinv₀ : EventInv s₀) (hinv : Inv s)
    (hroom : bs.length ≤ ringFree s₀.cfg.nRx s₀.rxRing) (hzero : (wireBits bs)[0]? = some false)
    (h : InLoopback s₀ (wireBits bs) 0 s) :
    ∃ t, cycles (List.replicate (16 * bs.length * s₀.cfg.halfBit) quietCycle) s = .next t ∧ Inv t ∧ AfterFrame s₀ bs t := by
  have hne : wireBits bs ≠ [] := fun hnil => nomatch hnil ▸ hzero
  have hbits : (wireBits bs).length ≤ 8 * ringFree s₀.cfg.nRx s₀.rxRing := by rw [length_wireBits]; omega
  have hslots : 16 * bs.length = (slotsOfBits (wireBits bs)).length := by rw [length_slotsOfBits, length_wireBits]; omega
  rw [hslots]
  obtain ⟨t, hrun, hinvt, ht⟩ := quiet_run hinv h fun j hj _ _ hinvs hs he => hs.next_cycle hj hinvs hinv₀ hbits hzero he
  refine ⟨t, hrun, hinvt, ?_⟩
  obtain hsend | ⟨_, hrel⟩ := ht.sent
  · exact absurd (hsend.lt_total hinvt) (lt_irrefl _)
  · exact ht.heard.afterFrame hne hrel

theorem Resting.next_cycle {s₀ s t : State} {bs : List Byte} {i : Nat} (h : Resting s₀ bs i s) (hinv : Inv s)
    (hrel : s₀.cfg.releasedLevel = true) (he : cycle quietCycle s = .next t) : Resting s₀ bs (i + 1) t := by
  obtain ⟨ht, hline, hcnt⟩ := h.toAfterFrame.no_edge hinv hrel h.line he
  refine { ht with line := hline, idleCnt := fun ha => ?_ }
  obtain ⟨hs, heq⟩ := hcnt ha
  have hi := h.idleCnt hs
  obtain ⟨hpos, _⟩ := idleCnt_range hinv hs
  omega

/-- The cycles after the one that sees the release. -/
theorem quiet_run_idle {s₀ s : State} {bs : List Byte} (hrel : s₀.cfg.releasedLevel = true) (hinv : Inv s)
    (h : Resting s₀ bs 0 s) :
    ∃ t, cycles (List.replicate s₀.cfg.tIdle quietCycle) s = .next t ∧ AfterFrame s₀ bs t ∧ t.ls = .idle := by
  obtain ⟨t, hrun, hinvt, ht⟩ := quiet_run (n := s₀.cfg.tIdle) hinv h fun _ _ _ _ hinvs hs he => hs.next_cycle hinvs hrel he
  refine ⟨t, hrun, ht.toAfterFrame, ht.idle ?_⟩
  rw [← Bool.not_eq_true]
  intro ha
  have hi := ht.idleCnt ha
  obtain ⟨hpos, _⟩ := idleCnt_range hinvt ha
  omega

/-- Settles O58: the frame, the cycle that sees its release, and a whole idle period. -/
theorem loopbackDeliversTheFrame : Obligations.LoopbackDeliversTheFrame := by
  intro s p hinv hrel hlevel hactive hempty hls hexp hc hlen hfits hroom
  obtain ⟨hev, _⟩ := (inv_iff s).mp hinv
  obtain ⟨hen, _, _⟩ := hev.i4 hactive
  obtain ⟨u, hu⟩ := cycle_next hinv ⟨false, .loopback, some ⟨0x0010#16, .bytes p⟩⟩
  have hinvu := cycle_inv hinv hu
  have hsend := cycle_enq_sendsAt hinv ⟨hev, hactive, hempty, hls, hlen, hfits⟩ (by simp [lineIn, hen, hrel, hlevel]) hu
  rw [wireSlots_eq] at hsend
  obtain ⟨v, hv, hinvv, hafter⟩ := quiet_run_frame (bs := stationFrame s.cfg p) hev hinvu (by rwa [length_stationFrame]) rfl
    ⟨heardAt_start _ hev hlevel hrel hactive hls hexp hc hu, .inl hsend⟩
  obtain ⟨w, hw⟩ := cycle_next hinvv quietCycle
  obtain ⟨t, ht, haftert, hidle⟩ := quiet_run_idle hrel (cycle_inv hinvv hw) (hafter.release hinvv hrel hw)
  obtain ⟨hbytes, _⟩ := haftert.bytes
  refine ⟨t, ?_, haftert.cfg ▸ hbytes, hidle, haftert.released.inactive, haftert.overflow, haftert.released.aborted⟩
  rw [length_stationFrame] at hv
  rw [cycles, hu, andThen_next, Nat.add_assoc, List.replicate_add, cycles_append, hv, andThen_next,
    List.replicate_succ, cycles, hw, andThen_next, ht]

end Sys2Proof.Machine
end

section
/-! SUPPORT. The proofs of family 46_cycle_layer.md, the two layers: no instruction reads the counters or `prevLevel` (R30, R36), so
that a cycle is a run of the event layer (R254). -/

namespace Sys2Proof.Machine

/-! ## Actions that read no counter (R30, R36, R254) -/

/-- An outcome as the event layer sees it. -/
def viewOf (r : Result) : Result := andThen r fun s => .next (eventView s)

/-- An action that does not read what the cycle layer adds to the state: what the event layer sees of its outcome depends on what it
sees of the state alone. -/
def ReadsEventView (f : State → Result) : Prop := ∀ s, viewOf (f (eventView s)) = viewOf (f s)

theorem viewOf_eq_next {r : Result} {v : State} : viewOf r = .next v ↔ ∃ t, r = .next t ∧ eventView t = v := by
  simp only [viewOf, andThen_eq_next, Host.Outcome.next.injEq]

theorem ReadsEventView.congr {f : State → Result} (hf : ReadsEventView f) {s t : State} (h : eventView s = eventView t) :
    viewOf (f s) = viewOf (f t) := by
  rw [← hf s, h, hf t]

theorem readsEventView_next {u : State → State} (hu : ∀ s, eventView (u (eventView s)) = eventView (u s)) :
    ReadsEventView fun s => .next (u s) := fun s => congrArg Host.Outcome.next (hu s)

theorem readsEventView_fault (e : Fault) : ReadsEventView fun _ => .fault e := fun _ => rfl

theorem ReadsEventView.andThen {f g : State → Result} (hf : ReadsEventView f) (hg : ReadsEventView g) :
    ReadsEventView fun s => andThen (f s) g := by
  intro s
  have hview (r : Result) : viewOf (Machine.andThen r g) = viewOf (Machine.andThen (viewOf r) g) := by
    cases r with
    | next t => exact (hg t).symm
    | fault | refused => rfl
  rw [hview, hf s, ← hview]

theorem ReadsEventView.ite {f g : State → Result} (c : State → Prop) [DecidablePred c]
    (hc : ∀ s, c (eventView s) ↔ c s) (hf : ReadsEventView f) (hg : ReadsEventView g) :
    ReadsEventView fun s => if c s then f s else g s := by
  intro s
  by_cases h : c s
  · simp only [if_pos h, if_pos ((hc s).mpr h), hf s]
  · simp only [if_neg h, if_neg (mt (hc s).mp h), hg s]

/-! ## What the event layer reads: instructions, host commands and runs -/

theorem pushByte_readsEventView : ReadsEventView pushByte := by
  intro s
  simp only [pushByte, eventView]
  split <;> rfl

theorem advanceCursor_readsEventView : ReadsEventView advanceCursor :=
  .ite (·.rxCursor = 7) (fun _ => Iff.rfl)
    (pushByte_readsEventView.andThen (readsEventView_next fun _ => rfl)) (readsEventView_next fun _ => rfl)

theorem rxEdge_readsEventView (l : Bit) : ReadsEventView (rxEdge l) :=
  .ite (·.expData = true) (fun _ => Iff.rfl)
    (((readsEventView_next (u := sampleBit l) fun _ => rfl).andThen advanceCursor_readsEventView).andThen
      (readsEventView_next fun _ => rfl))
    (readsEventView_next fun _ => rfl)

theorem loadShift_readsEventView : ReadsEventView loadShift :=
  .ite (·.txBitsLeft = 0) (fun _ => Iff.rfl)
    (fun s => by simp only [eventView]; split <;> rfl)
    (readsEventView_next fun _ => rfl)

theorem driveNext_readsEventView : ReadsEventView driveNext :=
  loadShift_readsEventView.andThen (readsEventView_next fun _ => rfl)

theorem readsEventView_of_responds {f : State → Result}
    (h : ∃ r : Response, ∀ s, f s = .next { s with resp := some r }) : ReadsEventView f := by
  obtain ⟨r, hr⟩ := h
  intro s
  rw [hr, hr]
  rfl

theorem execEnq_readsEventView (p : List Byte) : ReadsEventView (execEnq p) := by
  intro s
  have hblocked (n : Nat) : queueBlocked n (eventView s) = queueBlocked n s := rfl
  simp only [execEnq, hblocked, show (eventView s).cfg = s.cfg from rfl, show (eventView s).txRing = s.txRing from rfl]
  split
  · rfl
  · rename_i hdr _
    rcases queueBlocked (serialize hdr).length s with _ | _
    · simp only [Bool.false_eq_true, if_false]
      split <;> rfl
    · rfl

theorem execRxget_readsEventView : ReadsEventView execRxget :=
  .ite (fun s => ringEmpty s.rxRing = true) (fun _ => Iff.rfl) (readsEventView_next fun _ => rfl)
    (fun s => by simp only [eventView]; split <;> rfl)

theorem exec_readsEventView (i : Instr) : ReadsEventView (exec i) := by
  cases i with
  | edge l => exact (readsEventView_next (u := monitorEdge l) fun _ => rfl).andThen (rxEdge_readsEventView l)
  | idleTo =>
    exact .ite (·.idleArmed = true) (fun _ => Iff.rfl)
      (.ite (fun s => s.lastLevel = s.cfg.releasedLevel) (fun _ => Iff.rfl) (readsEventView_next fun _ => rfl)
        (readsEventView_next fun _ => rfl))
      (readsEventView_fault _)
  | hbTo => exact .ite (·.hbArmed = true) (fun _ => Iff.rfl) (readsEventView_next fun _ => rfl) (readsEventView_fault _)
  | tick =>
    exact .ite (·.tickArmed = true) (fun _ => Iff.rfl)
      (.ite (·.ls = .collision) (fun _ => Iff.rfl) (readsEventView_next fun _ => rfl)
        (.ite (fun s => s.txBitsLeft = 0 ∧ ringEmpty s.txRing = true) (fun _ => Iff.rfl) (readsEventView_next fun _ => rfl)
          driveNext_readsEventView))
      (readsEventView_fault _)
  | start =>
    exact .ite (startReady · = true) (fun _ => Iff.rfl)
      ((readsEventView_next (u := fun s => arm .tick { s with txActive := true }) fun _ => rfl).andThen
        driveNext_readsEventView)
      (readsEventView_fault _)
  | enq p => exact execEnq_readsEventView p
  | rxget => exact execRxget_readsEventView
  | clrf m =>
    exact .ite (fun _ => clrfMaskOk m = true) (fun _ => Iff.rfl) (readsEventView_next fun _ => rfl)
      (readsEventView_next fun _ => rfl)
  | status | crc8 | encode => exact readsEventView_next fun _ => rfl
  | frame a b ce p => exact readsEventView_of_responds (exec_frame_responds a b ce p)
  | parse buf => exact readsEventView_of_responds (exec_parse_responds buf)
  | confirm hdr =>
    exact .ite (fun _ => hdr.wf = true) (fun _ => Iff.rfl)
      (.ite (fun _ => confirmCrc hdr = true) (fun _ => Iff.rfl) (readsEventView_next fun _ => rfl)
        (readsEventView_next fun _ => rfl))
      (readsEventView_next fun _ => rfl)

theorem execute_readsEventView (c : Command) : ReadsEventView (execute c) := by
  intro s
  unfold execute
  split
  · rfl
  · split
    · rfl
    · exact exec_readsEventView _ s

theorem hostPhase_readsEventView (cmd : Option Command) : ReadsEventView (hostPhase cmd) := by
  cases cmd with
  | none => exact readsEventView_next fun _ => rfl
  | some c => exact execute_readsEventView c

theorem execAll_readsEventView (is : List Instr) : ReadsEventView (execAll is) := by
  induction is with
  | nil => exact readsEventView_next fun _ => rfl
  | cons i is ih => exact (exec_readsEventView i).andThen ih

/-! ## A cycle as a run of events (R253, R254) -/

/-- Some of the events `is`, in their order, lead from `s` to what the event layer sees of `t`. -/
def RunsSome (is : List Instr) (s t : State) : Prop :=
  ∃ js, List.Sublist js is ∧ viewOf (execAll js s) = .next (eventView t)

theorem runsSome_of_view_eq (is : List Instr) {s t : State} (h : eventView s = eventView t) : RunsSome is s t :=
  ⟨[], List.nil_sublist is, congrArg Host.Outcome.next h⟩

theorem runsSome_of_exec {i : Instr} {s t : State} (h : exec i s = .next t) : RunsSome [i] s t :=
  ⟨[i], List.Sublist.refl _, by simp only [execAll, h, viewOf, andThen_next]⟩

theorem RunsSome.of_view_eq {is : List Instr} {s s' t t' : State} (h : RunsSome is s t) (hs : eventView s' = eventView s)
    (ht : eventView t' = eventView t) : RunsSome is s' t' := by
  obtain ⟨js, hsub, hrun⟩ := h
  exact ⟨js, hsub, by rw [(execAll_readsEventView js).congr hs, hrun, ht]⟩

theorem RunsSome.append {is js : List Instr} {s t u : State} (h : RunsSome is s t) (h' : RunsSome js t u) :
    RunsSome (is ++ js) s u := by
  obtain ⟨is', hsub, hrun⟩ := h
  obtain ⟨js', hsub', hrun'⟩ := h'
  obtain ⟨t', ht', hview⟩ := viewOf_eq_next.1 hrun
  refine ⟨is' ++ js', hsub.append hsub', ?_⟩
  rw [execAll_append, ht', andThen_next, (execAll_readsEventView js').congr hview, hrun']

/-- A step of the cycle that runs its event where a guard holds. -/
theorem runsSome_execWhere {i : Instr} {g : Bool} {s t : State} (h : (if g then exec i s else .next s) = .next t) :
    RunsSome [i] s t := by
  cases g with
  | true => exact runsSome_of_exec h
  | false => cases h; exact runsSome_of_view_eq _ rfl

theorem edgePhase_runsSome {l : Bit} {s t : State} (h : edgePhase l s = .next t) : RunsSome [.edge l] s t := by
  unfold edgePhase at h
  split at h
  · cases h; exact runsSome_of_view_eq _ rfl
  · exact (runsSome_of_exec h).of_view_eq rfl rfl

theorem reloadTick_eventView (s : State) : eventView (reloadTick s) = eventView s := by
  unfold reloadTick
  split <;> rfl

theorem tickPhase_runsSome {d : Bool} {s t : State} (h : tickPhase d s = .next t) : RunsSome [.tick] s t := by
  unfold tickPhase at h
  split at h
  · obtain ⟨u, hu, ht⟩ := andThen_eq_next.1 h
    cases ht
    exact (runsSome_of_exec hu).of_view_eq rfl (reloadTick_eventView u)
  · cases h; exact runsSome_of_view_eq _ rfl

/-- Settles O56: each of the steps 2 to 5 and 7 runs its event or none, and the counters and `prevLevel`, in which the states of the
cycle differ from those of the run, are read by no instruction. -/
theorem cycleIsARunOfEvents : Obligations.CycleIsARunOfEvents := by
  intro c s t hrst h
  rw [cycle, hrst] at h
  obtain ⟨s1, s2, s3, s4, s5, hedge, hidle, hhb, htick, hhost, hstart⟩ := runPhases_cases (s := counted s) h
  have hbefore : RunsSome [.edge (lineIn c.line s), .idleTo, .hbTo, .tick] { s with resp := none } s4 :=
    ((((edgePhase_runsSome hedge).append (runsSome_execWhere hidle)).append (runsSome_execWhere hhb)).append
      (tickPhase_runsSome htick)).of_view_eq rfl rfl
  obtain ⟨before, hsub, hrun⟩ := hbefore
  obtain ⟨after, hsub', hrun'⟩ := runsSome_execWhere hstart
  obtain ⟨u, hu, huv⟩ := viewOf_eq_next.1 hrun
  obtain ⟨v, hv, hvv⟩ : ∃ v, hostPhase c.cmd u = .next v ∧ eventView v = eventView s5 := by
    rw [← viewOf_eq_next, (hostPhase_readsEventView c.cmd).congr huv, hhost]
    rfl
  obtain ⟨w, hw, hwv⟩ : ∃ w, execAll after v = .next w ∧ eventView w = eventView t := by
    rw [← viewOf_eq_next, (execAll_readsEventView after).congr hvv, hrun']
  exact ⟨before, after, u, v, w, hsub, hsub', hu, hv, hw, hwv⟩

end Sys2Proof.Machine
end

section
/-! SUPPORT. The proofs of family 46_cycle_layer.md, one station: the level of its line (R255), the host port (R258), the edge that
cancels both timeouts (R253), and the idle timer's full period (R252, R257). -/

namespace Sys2Proof.Machine

/-! ## The line and the host port (R255, R258) -/

theorem driveOf_eq_false_iff {en level : Bit} : driveOf en level = false ↔ en = true ∧ level = false := by
  cases en <;> simp [driveOf]

/-- A wired-AND line is low exactly where some station drives it low. -/
theorem lineIn_shared_eq_false_iff (others : List (Bit × Bit)) (s : State) :
    lineIn (.shared others) s = false ↔
      (s.txEn = true ∧ s.txLevel = false) ∨ ∃ o ∈ others, o.1 = true ∧ o.2 = false := by
  simp only [lineIn, Bool.and_eq_false_iff, List.all_eq_false, Bool.not_eq_true, driveOf_eq_false_iff]

/-- Settles O59: every wiring by its own case of `lineIn`; a network's line is the shared line of one station and the others. -/
theorem lineResolution : Obligations.LineResolution := by
  refine ⟨fun s hen => if_pos hen, fun s hen => ?_, fun _ _ => rfl, lineIn_shared_eq_false_iff, fun s rest => ?_⟩
  · simp [lineIn, hen]
  · simp [networkLine, lineIn, List.all_map, Function.comp_def]

/-- Settles O8: the host port looks at `OP` first, and no legal command has an event's. -/
theorem hostPortRunsCommandsOnly : Obligations.HostPortRunsCommandsOnly := by
  refine ⟨fun c s hlow hhigh => if_pos ?_, fun _ _ s hd hi => execute_command hd hi s⟩
  simp [isEventWord, opOf, hlow, hhigh]

/-! ## The steps from the tick on leave the line monitor and the phase of the receiver alone (R253) -/

/-- A state without the fields of the transmitter, the response, the receive ring, its flag and the mark: the tick, every host
command and `START` leave the rest alone. -/
def lineView (s : State) : State := { rxView s with rxRing := Ring.reset, rxOverflow := false, refused := false }

theorem lineView_congr {s t : State} (h : rxView s = rxView t) : lineView s = lineView t := by
  rw [lineView, lineView, h]

theorem execute_lineView {c : Command} {s t : State} (h : execute c s = .next t) : lineView t = lineView s := by
  rcases hd : decode c with e | i
  · cases (execute_illegal hd s).symm.trans h
    rfl
  · rcases hi : i.isEvent with _ | _
    · obtain ⟨_, _, _, _, _, _, rfl⟩ := exec_command_frame hi ((execute_command hd hi s).symm.trans h)
      rfl
    · cases (execute_event hd hi s).symm.trans h
      rfl

theorem hostPhase_lineView {cmd : Option Command} {s t : State} (h : hostPhase cmd s = .next t) : lineView t = lineView s := by
  cases cmd with
  | none => cases h; rfl
  | some c => exact execute_lineView h

/-- Steps 2 to 4 of a cycle that is no reset decide all that `lineView` keeps. -/
theorem cycle_lineView_cases {c : CycleInput} {s t : State} (hrst : c.rst = false) (h : cycle c s = .next t) :
    ∃ v w u, edgePhase (lineIn c.line s) (counted s) = .next v ∧
      idlePhase (due .idle (counted s) && lineIn c.line s == s.prevLevel) v = .next w ∧
      hbPhase (due .hb (counted s) && lineIn c.line s == s.prevLevel) w = .next u ∧ lineView t = lineView u := by
  rw [cycle, hrst] at h
  obtain ⟨v, w, u, s4, s5, hedge, hidle, hhb, htick, hhost, hstart⟩ := runPhases_cases (s := counted s) h
  refine ⟨v, w, u, hedge, hidle, hhb, ?_⟩
  rw [lineView_congr (startPhase_rxView hstart), hostPhase_lineView hhost, lineView_congr (tickPhase_rxView htick)]

/-! ## A cycle with an edge (R251, R253) -/

/-- With an edge neither timeout runs, so the line is as `EDGE` left it. -/
theorem cycle_edge {c : CycleInput} {s t : State} (hrx : RingOk s.cfg.nRx s.rxRing) (hrst : c.rst = false)
    (hl : lineIn c.line s ≠ s.prevLevel) (h : cycle c s = .next t) :
    t.ls = .busy ∧ AfterEdge (lineIn c.line s) s t := by
  obtain ⟨v, w, u, hedge, hidle, hhb, hview⟩ := cycle_lineView_cases hrst h
  rw [beq_eq_false_iff_ne.mpr hl, Bool.and_false] at hidle hhb
  cases hidle
  cases hhb
  have hexec := (if_neg hl : edgePhase _ (counted s) = _).symm.trans hedge
  obtain ⟨_, _, _, _, _, rfl⟩ :=
    rxEdge_effect (s := monitorEdge _ { counted s with prevLevel := lineIn c.line s }) hrx (execEdge_cases hexec)
  have hv : AfterEdge (lineIn c.line s) s (lineView t) := by
    rw [hview]
    exact ⟨rfl, rfl, rfl, rfl, rfl, rfl, fun he => if_pos he⟩
  exact ⟨(congrArg State.ls hview :), { hv with }⟩

/-- Settles O54: the cycle goes on, and no timeout runs after its edge. -/
theorem edgeWinsItsTie : Obligations.EdgeWinsItsTie := by
  intro c s hinv hrst hl
  obtain ⟨hev, _⟩ := (inv_iff s).mp hinv
  obtain ⟨t, ht⟩ := cycle_next hinv c
  obtain ⟨hls, hedge⟩ := cycle_edge hev.rxRing_ok hrst hl ht
  exact ⟨t, ht, hedge.prevLevel, hedge.lastLevel, hls, hedge.idleArmed, hedge.idleCnt,
    fun hexp => ⟨hedge.expData.trans (congrArg not hexp), hedge.hbArmed.trans hexp, hedge.hbCnt hexp⟩,
    fun hexp => ⟨hedge.expData.trans (congrArg not hexp), hedge.hbArmed.trans hexp⟩⟩

/-! ## A cycle without an edge (R252, R257) -/

/-- The part of `lineView` that the half-bit timeout leaves alone, the line monitor and the edge detector among it. -/
def monitorView (s : State) : State := { lineView s with expData := false, hbArmed := false }

theorem hbPhase_monitorView {d : Bool} {s t : State} (h : hbPhase d s = .next t) : monitorView t = monitorView s := by
  obtain rfl | rfl := hbPhase_cases h <;> rfl

/-- Only the idle timeout acts on the line monitor, and it runs where it is due. -/
theorem cycle_no_edge {c : CycleInput} {s t : State} (hrst : c.rst = false) (hl : lineIn c.line s = s.prevLevel)
    (h : cycle c s = .next t) :
    ∃ w, idlePhase (due .idle (counted s)) (counted s) = .next w ∧ monitorView t = monitorView w := by
  obtain ⟨v, w, u, hedge, hidle, hhb, hview⟩ := cycle_lineView_cases hrst h
  cases (edgePhase_no_edge (s := counted s) hl).symm.trans hedge
  rw [beq_iff_eq.mpr hl, Bool.and_true] at hidle
  refine ⟨w, hidle, ?_⟩
  rw [monitorView, hview]
  exact hbPhase_monitorView hhb

/-- Before its last cycle the idle timer counts. -/
theorem cycle_idle_counts {c : CycleInput} {s t : State} (hrst : c.rst = false) (hl : lineIn c.line s = s.prevLevel)
    (ha : s.idleArmed = true) (hcnt : 2 ≤ s.idleCnt) (h : cycle c s = .next t) :
    t.idleArmed = true ∧ t.idleCnt = s.idleCnt - 1 ∧ t.lastLevel = s.lastLevel ∧ t.prevLevel = s.prevLevel := by
  obtain ⟨w, hidle, hview⟩ := cycle_no_edge hrst hl h
  cases (idlePhase_counted_not_due fun _ => hcnt).symm.trans hidle
  exact ⟨(congrArg State.idleArmed hview :).trans ha, (congrArg State.idleCnt hview :).trans (if_pos ha),
    (congrArg State.lastLevel hview :), (congrArg State.prevLevel hview :)⟩

/-- In its last cycle it runs out, and `IDLE_TO` decides by the last level (R101). -/
theorem cycle_idle_ends {c : CycleInput} {s t : State} (hrst : c.rst = false) (hl : lineIn c.line s = s.prevLevel)
    (ha : s.idleArmed = true) (hcnt : s.idleCnt = 1) (h : cycle c s = .next t) :
    t.idleArmed = false ∧ t.ls = if s.lastLevel = s.cfg.releasedLevel then .idle else .collision := by
  obtain ⟨w, hidle, hview⟩ := cycle_no_edge hrst hl h
  have hguard : (due .idle (counted s) && (counted s).idleArmed) = true := by
    rw [due_idle_counted ha, hcnt]
    exact ha
  have hexec : exec .idleTo (counted s) = .next w := (if_pos hguard).symm.trans hidle
  have hls := exec_idleTo_ls hexec
  refine ⟨(congrArg State.idleArmed hview :).trans ?_, (congrArg State.ls hview :).trans hls⟩
  obtain ⟨_, ⟨_, rfl⟩ | ⟨_, rfl⟩⟩ := execIdleTo_cases hexec <;> rfl

/-- Settles O55, cycle by cycle: I1 keeps the line BUSY while the timer is armed, and R259 keeps its count above 0. -/
theorem idleTimeoutRunsItsFullPeriod : Obligations.IdleTimeoutRunsItsFullPeriod := by
  intro cs
  induction cs with
  | nil =>
    intro s hinv ha _
    obtain ⟨hev, _⟩ := (inv_iff s).mp hinv
    obtain ⟨hpos, _⟩ := idleCnt_range hinv ha
    exact ⟨fun _ => ⟨s, rfl, hev.i1 ha, ha, rfl⟩, fun hend => absurd hend (Nat.ne_of_lt hpos)⟩
  | cons c cs ih =>
    intro s hinv ha hquiet
    obtain ⟨⟨hrst, hline⟩, hrest⟩ := List.forall_mem_cons.mp hquiet
    have hl : lineIn c.line s = s.prevLevel := by rw [hline]; rfl
    obtain ⟨u, hu⟩ := cycle_next hinv c
    have hrun : cycles (c :: cs) s = cycles cs u := by rw [cycles, hu, andThen_next]
    rw [hrun, List.length_cons]
    by_cases hcnt : s.idleCnt = 1
    · refine ⟨fun hlt => absurd hlt (by omega), fun hend => ?_⟩
      obtain rfl := List.length_eq_zero_iff.mp (show cs.length = 0 by omega)
      exact ⟨u, rfl, cycle_idle_ends hrst hl ha hcnt hu⟩
    · obtain ⟨hpos, _⟩ := idleCnt_range hinv ha
      obtain ⟨hau, hcntu, hlastu, hprevu⟩ := cycle_idle_counts hrst hl ha (by omega) hu
      obtain ⟨hbefore, hend⟩ := ih u (cycle_inv hinv hu) hau (by rwa [hprevu])
      rw [hcntu] at hbefore hend
      rw [hlastu, cycle_cfg c s u hu] at hend
      refine ⟨fun hlt => ?_, fun heq => hend (Nat.eq_sub_of_add_eq heq)⟩
      obtain ⟨t, ht, hls, hat, hcntt⟩ := hbefore (Nat.lt_sub_of_add_lt hlt)
      exact ⟨t, ht, hls, hat, by rw [hcntt, Nat.sub_sub, Nat.add_comm]⟩

end Sys2Proof.Machine
end

section
/-! SUPPORT. The proofs of families 47_host_port.md, 60_exceptions.md and 70_reset_and_hazards.md: the status word (R280), what a host
command writes (R281, R283), that every step goes on (R302, R313), and what reset and every step keep (R340, R341). -/

namespace Sys2Proof.Machine

/-! ## A step runs one input (R4, R313) -/

/-- A step on a clock cycle takes it from the inputs and runs it. -/
theorem step_cycle (c : CycleInput) (rest : List Input) (s : State) :
    step { s with inputs := .cycle c :: rest } = cycle c { s with inputs := rest } := rfl

theorem step_of_no_inputs {s : State} (h : s.inputs = []) : step s = cycle quietCycle s := by
  simp only [step, runNext, h]

/-- Whatever waits in the inputs, a step runs some input on a state that differs from `s` in its inputs alone. -/
theorem step_eq_runInput (s : State) : ∃ i rest, step s = runInput i { s with inputs := rest } := by
  unfold step runNext
  split
  · exact ⟨.cycle quietCycle, s.inputs, rfl⟩
  · exact ⟨_, _, rfl⟩

/-- Settles O10: a cycle looks at `rst` before anything else. -/
theorem resetCycleResets : Obligations.ResetCycleResets := by
  intro line cmd rest s
  rw [step_cycle]
  exact if_pos rfl

/-- Settles O60: both sides run the quiet cycle on `s`. -/
theorem clockGoesOnWithoutInputs : Obligations.ClockGoesOnWithoutInputs := by
  intro s h
  have heta : { s with inputs := [] } = s := by rw [← h]
  calc step s = cycle quietCycle s := step_of_no_inputs h
    _ = cycle quietCycle { s with inputs := [] } := by rw [heta]
    _ = step { s with inputs := [.cycle quietCycle] } := (step_cycle quietCycle [] s).symm

/-! ## Every step goes on (R302, R313) -/

theorem EventInv.present_next {s : State} (h : EventInv s) (c : Command) : ∃ t, present c s = .next t := by
  rcases hd : decode c with e | i
  · exact ⟨_, present_illegal hd s⟩
  · rcases ha : admitted i s with _ | _
    · exact ⟨_, present_not_admitted hd ha⟩
    · rw [present_admitted hd ha]
      exact h.exec_next ha

theorem runInput_next {s : State} (h : Inv s) (i : Input) : ∃ t, runInput i s = .next t := by
  cases i with
  | word c =>
    obtain ⟨hev, _⟩ := (inv_iff s).mp h
    exact EventInv.present_next (s := { s with resp := none }) { hev with } c
  | cycle c => exact cycle_next h c

/-- Settles O13: the invariants do not speak of the inputs, and from them every word and every cycle goes on. -/
theorem nothingStopsTheBlock : Obligations.NothingStopsTheBlock := by
  intro s hinv
  obtain ⟨i, rest, hstep⟩ := step_eq_runInput s
  rw [hstep]
  exact runInput_next (s := { s with inputs := rest }) hinv i

/-! ## The status word (R83, R280) -/

theorem flagBit_eq_setBit (f : Bool) (k : Nat) : flagBit f k = setBit 0#8 k f := by
  cases f <;> simp [flagBit, setBit]

theorem getLsbD_flagBit (f : Bool) (k i : Nat) : (flagBit f k).getLsbD i = (decide (i = k ∧ i < 8) && f) := by
  rw [flagBit_eq_setBit, getLsbD_setBit, BitVec.getLsbD_zero, Bool.if_false_right]

/-- Each bit of the status word: the line state's code below, and each flag in its own place. -/
theorem getLsbD_statusWord (s : State) {i : Nat} (hi : i < 8) :
    (statusWord s).getLsbD i =
      (s.ls.enc.getLsbD i || (decide (i = 2) && s.txActive) || (decide (i = 3) && txPending s) ||
        (decide (i = 4) && s.txAborted) || (decide (i = 5) && rxAvail s) || (decide (i = 6) && s.rxOverflow) ||
        (decide (i = 7) && s.lastLevel)) := by
  simp only [statusWord, BitVec.getLsbD_or, BitVec.getLsbD_setWidth, getLsbD_flagBit, hi, and_true, decide_true, Bool.true_and]

/-- No flag reaches the two bits of the line state's code. -/
theorem extractLsb'_statusWord (s : State) : (statusWord s).extractLsb' 0 2 = s.ls.enc := by
  apply BitVec.eq_of_getLsbD_eq
  intro i hi
  have hflag {k : Nat} (hk : 2 ≤ k) : i ≠ k := by omega
  simp [-BitVec.getLsbD_eq_getElem, getLsbD_statusWord, hi, show i < 8 by omega, hflag]

/-- Settles O44, bit by bit: the code of the line state ends below bit 2, where the flags begin. -/
theorem statusReadsTheFlags : Obligations.StatusReadsTheFlags := by
  intro s
  refine ⟨statusWord s, rfl, (extractLsb'_statusWord s).trans (by cases s.ls <;> rfl), ?_⟩
  simp [-BitVec.getLsbD_eq_getElem, getLsbD_statusWord, txPending, rxAvail, ringEmpty, beq_eq_decide]

/-! ## What a host command writes (R281, R283) -/

/-- The five ways a host command that begins in `s` ends. -/
inductive CommandEnd (s : State) : Instr → State → Prop where
  /-- It writes its response alone. -/
  | answer {i : Instr} (c : RespCode) (d : RespData) : CommandEnd s i (respond c d s)
  /-- It is ill formed, and refused (R82). -/
  | refuse {i : Instr} (hwf : i.wf = false) : CommandEnd s i (refuse s)
  /-- `ENQ` stores in the transmit ring. -/
  | queue (p : List Byte) (buf : Memory) (put : Nat) :
      CommandEnd s (.enq p) (respond .ok .none { s with txRing := { s.txRing with buf := buf, put := put } })
  /-- `RXGET` takes a byte from the receive ring. -/
  | read (b : Byte) (get : Nat) :
      CommandEnd s .rxget (respond .ok (.byte b) { s with rxRing := { s.rxRing with get := get } })
  /-- `CLRF` clears the flags its mask names. -/
  | clear (m : Byte) : CommandEnd s (.clrf m) (respond .ok .none (clearFlags m s))

theorem exec_commandEnd {i : Instr} {s t : State} (hi : i.isEvent = false) (h : exec i s = .next t) : CommandEnd s i t := by
  cases i with
  | edge | idleTo | hbTo | tick | start => cases hi
  | enq p =>
    obtain ⟨_, _, _, rfl⟩ | ⟨_, ⟨buf, put, get⟩, _, _, hr, rfl⟩ := execEnq_cases h
    · exact .answer _ _
    · obtain rfl : get = s.txRing.get := ringPutAll_stored_get hr
      exact .queue p buf put
  | rxget =>
    obtain ⟨_, rfl⟩ | ⟨_, b, _, rfl⟩ := execRxget_cases h
    · exact .answer _ _
    · exact .read b _
  | clrf m =>
    obtain ⟨_, rfl⟩ | ⟨hm, rfl⟩ := execClrf_cases h
    · exact .clear m
    · exact .refuse hm
  | status | crc8 | encode => cases h; exact .answer _ _
  | frame => obtain ⟨_, rfl⟩ | ⟨_, _, _, rfl⟩ := execFrame_cases h <;> exact .answer _ _
  | parse => obtain ⟨_, _, rfl⟩ | ⟨_, _, rfl⟩ := execParse_cases h <;> exact .answer _ _
  | confirm =>
    obtain ⟨_, _, rfl⟩ | ⟨_, _, rfl⟩ | ⟨hw, rfl⟩ := execConfirm_cases h
    · exact .answer _ _
    · exact .answer _ _
    · exact .refuse hw

/-- Settles O47: each of the five ends writes what its own command may. -/
theorem hostCommandsWriteOnlyTheirOwn : Obligations.HostCommandsWriteOnlyTheirOwn := by
  intro i s t hi h
  cases exec_commandEnd hi h with
  | answer => exact ⟨rfl, fun _ => rfl, fun _ => rfl, fun _ => ⟨rfl, rfl⟩, fun _ => rfl⟩
  | refuse hwf => exact ⟨rfl, fun _ => rfl, fun _ => rfl, fun _ => ⟨rfl, rfl⟩, fun hw => nomatch hwf.symm.trans hw⟩
  | queue p => exact ⟨rfl, fun hne => absurd rfl (hne p), fun _ => rfl, fun _ => ⟨rfl, rfl⟩, fun _ => rfl⟩
  | read => exact ⟨rfl, fun _ => rfl, fun hne => absurd rfl hne, fun _ => ⟨rfl, rfl⟩, fun _ => rfl⟩
  | clear m => exact ⟨rfl, fun _ => rfl, fun _ => rfl, fun hne => absurd rfl (hne m), fun _ => rfl⟩

/-! ## The sticky flags and the mark (R281, R303, R304, R341) -/

/-- An event sets a sticky flag or leaves it, and does not touch the mark. -/
theorem exec_event_flags {i : Instr} {s t : State} (hi : i.isEvent = true) (h : exec i s = .next t) :
    (s.txAborted = true → t.txAborted = true) ∧ (s.rxOverflow = true → t.rxOverflow = true) ∧ t.refused = s.refused := by
  cases i with
  | edge l =>
    rcases rxEdge_cases (execEdge_cases h) with ⟨_, rfl⟩ | ⟨_, _, rfl⟩ | ⟨_, _, _, rfl⟩ | ⟨_, _, _, _, rfl⟩
    · exact ⟨id, id, rfl⟩
    · exact ⟨id, id, rfl⟩
    · exact ⟨id, fun _ => rfl, rfl⟩
    · exact ⟨id, id, rfl⟩
  | idleTo => obtain ⟨_, ⟨_, rfl⟩ | ⟨_, rfl⟩⟩ := execIdleTo_cases h <;> exact ⟨id, id, rfl⟩
  | hbTo => obtain ⟨_, rfl⟩ := execHbTo_cases h; exact ⟨id, id, rfl⟩
  | tick =>
    obtain ⟨_, ⟨_, rfl⟩ | ⟨_, _, _, rfl⟩ | ⟨_, _, hd⟩⟩ := execTick_cases h
    · exact ⟨fun _ => rfl, id, rfl⟩
    · exact ⟨id, id, rfl⟩
    · obtain ⟨_, _, _, _, rfl⟩ := driveNext_frame hd
      exact ⟨id, id, rfl⟩
  | start =>
    obtain ⟨_, _, _, hd⟩ := execStart_cases h
    obtain ⟨_, _, _, _, rfl⟩ := driveNext_frame hd
    exact ⟨id, id, rfl⟩
  | enq | rxget | status | clrf | crc8 | encode | frame | parse | confirm => cases hi

theorem clrfMaskOk_iff (m : Byte) : clrfMaskOk m = true ↔ m &&& 0xAF#8 = 0#8 := beq_iff_eq

theorem clearFlags_eq (m : Byte) (s : State) :
    clearFlags m s = { s with
      txAborted := s.txAborted && !m.getLsbD 4, rxOverflow := s.rxOverflow && !m.getLsbD 6 } := by
  simp [clearFlags, maskClearsAborted, maskClearsOverflow, Bool.and_comm]

/-- Settles O45: `CLRF` by its mask, every other host command by the frame of O47, and each event by its own cases. -/
theorem onlyClrfClearsStickyFlags : Obligations.OnlyClrfClearsStickyFlags := by
  refine ⟨fun m s hm => ?_, fun m s hm => if_neg (mt (clrfMaskOk_iff m).mp hm), fun i s t hne h => ?_⟩
  · have hexec : exec (.clrf m) s = .next (respond .ok .none (clearFlags m s)) := if_pos ((clrfMaskOk_iff m).mpr hm)
    rw [hexec, clearFlags_eq]
    rfl
  · rcases hi : i.isEvent with _ | _
    · obtain ⟨_, _, _, hflags, _⟩ := hostCommandsWriteOnlyTheirOwn i s t hi h
      obtain ⟨hab, hov⟩ := hflags hne
      exact ⟨hab.trans, hov.trans⟩
    · obtain ⟨hab, hov, _⟩ := exec_event_flags hi h
      exact ⟨hab, hov⟩

/-! ## What every step keeps (R341, R39) -/

/-- An action that does not clear the mark. -/
abbrev KeepsMark (f : State → Result) : Prop := ∀ s t, f s = .next t → s.refused = true → t.refused = true

theorem exec_keepsMark (i : Instr) : KeepsMark (exec i) := by
  intro s t h hmark
  rcases hi : i.isEvent with _ | _
  · cases exec_commandEnd hi h with
    | refuse => rfl
    | answer | queue | read | clear => exact hmark
  · obtain ⟨_, _, hkeep⟩ := exec_event_flags hi h
    exact hkeep.trans hmark

theorem execAll_keepsMark (is : List Instr) : KeepsMark (execAll is) := by
  induction is with
  | nil => intro s t h hmark; cases h; exact hmark
  | cons i is ih =>
    intro s t h hmark
    obtain ⟨u, hu, hrun⟩ := andThen_eq_next.1 h
    exact ih u t hrun (exec_keepsMark i s u hu hmark)

theorem hostPhase_keepsMark (cmd : Option Command) : KeepsMark (hostPhase cmd) := by
  intro s t h hmark
  cases cmd with
  | none => cases h; exact hmark
  | some c =>
    change execute c s = .next t at h
    rcases hd : decode c with e | i
    · cases (execute_illegal hd s).symm.trans h
      rfl
    · rcases hi : i.isEvent with _ | _
      · exact exec_keepsMark i s t ((execute_command hd hi s).symm.trans h) hmark
      · cases (execute_event hd hi s).symm.trans h
        rfl

/-- A reset leaves the mark, and any other cycle is a run of events and a host command (R254), none of which clears it. -/
theorem cycle_keepsMark (c : CycleInput) : KeepsMark (cycle c) := by
  intro s t h hmark
  rcases hrst : c.rst with _ | _
  · obtain ⟨before, after, u, v, w, _, _, hu, hv, hw, hview⟩ := cycleIsARunOfEvents c s t hrst h
    have hmarku : u.refused = true := execAll_keepsMark before _ u hu hmark
    have hmarkw : w.refused = true := execAll_keepsMark after v w hw (hostPhase_keepsMark c.cmd u v hv hmarku)
    exact (congrArg State.refused hview :).symm.trans hmarkw
  · rw [cycle, if_pos hrst] at h
    cases h
    exact hmark

/-- A word of the event layer is refused, dropped or executed. -/
theorem present_cases {c : Command} {s t : State} (h : present c s = .next t) :
    t = refuse s ∨ t = s ∨ ∃ i, exec i s = .next t := by
  rcases hd : decode c with e | i
  · cases (present_illegal hd s).symm.trans h
    exact .inl rfl
  · rcases ha : admitted i s with _ | _
    · cases (present_not_admitted hd ha).symm.trans h
      exact .inr (.inl rfl)
    · exact .inr (.inr ⟨i, (present_admitted hd ha).symm.trans h⟩)

theorem present_keeps (c : Command) : KeepsCfg (present c) ∧ KeepsMark (present c) := by
  refine ⟨fun s t h => ?_, fun s t h hmark => ?_⟩
  · obtain rfl | rfl | ⟨i, he⟩ := present_cases h
    · rfl
    · rfl
    · exact exec_cfg i s t he
  · obtain rfl | rfl | ⟨i, he⟩ := present_cases h
    · rfl
    · exact hmark
    · exact exec_keepsMark i s t he hmark

theorem runInput_keeps (i : Input) : KeepsCfg (runInput i) ∧ KeepsMark (runInput i) := by
  cases i with
  | word c =>
    obtain ⟨hcfg, hmark⟩ := present_keeps c
    exact ⟨fun s => hcfg { s with resp := none }, fun s => hmark { s with resp := none }⟩
  | cycle c => exact ⟨cycle_cfg c, cycle_keepsMark c⟩

/-- Settles O15: a step runs one input, and no input changes the parameters or clears the mark. -/
theorem stepKeepsParametersAndMark : Obligations.StepKeepsParametersAndMark := by
  intro s t h
  obtain ⟨i, rest, hstep⟩ := step_eq_runInput s
  obtain ⟨hcfg, hmark⟩ := runInput_keeps i
  rw [hstep] at h
  exact ⟨hcfg { s with inputs := rest } t h, hmark { s with inputs := rest } t h⟩

end Sys2Proof.Machine
end
